-- ==== Sys2Proof/Word.lean ====
section
/-! DEFINITION. The word types of the FSV (00_scope R8): a byte of the stream, of a single-byte field and of the
payload buffer. Wider registers have their own widths and are written as bit vectors where they stand. -/

namespace Sys2Proof

/-- A byte of the input stream, of a single-byte field or of the payload buffer: 8 bits, unsigned (R8). Its `+` is the
spec's `+8`, the sum modulo 256 (R12). -/
abbrev Byte := BitVec 8

end Sys2Proof
end

