-- ==== Sys2Proof/Config.lean ====
section
/-! DEFINITION. What an implementation fixes (00_scope R9, R10) and the one free value (10_state R28). -/

namespace Sys2Proof

/-- The implementation parameters of R9, fixed when the hardware is built (70_reset R182). A state carries them
(`State.cfg`), no step changes them, and a statement about every state holds for all their values (log entry 2). -/
structure Params where
  /-- PAYLOAD_CAP: the capacity of the payload buffer in bytes, 0..65535. -/
  payloadCap : BitVec 16
  /-- CHECK_LEN_LO: whether a length low byte equal to the trailer ends the attempt. -/
  checkLenLo : Bool
  deriving DecidableEq, Repr

/-- The values of R9 under which the FSV is exactly the document's decoder. -/
def Params.default : Params := { payloadCap := 65535#16, checkLenLo := false }

/-- HDR, the header constant (R10). -/
def Config.hdr : Byte := 0xBB#8

/-- TRL, the trailer constant (R10). -/
def Config.trl : Byte := 0x7E#8

/-- ADDR_K, the address every valid frame carries (R10). -/
def Config.addrK : Byte := 0x02#8

/-- CMD_K, the command every valid frame carries (R10). -/
def Config.cmdK : Byte := 0x22#8

/-- FREE VALUE (log entry 1): what the payload buffer holds at an index nothing has written since power-up. "Its
contents after reset are unspecified, and a model draws them freely" (R28, 93 S5). It has no body: a claim holds
whatever it is. Safe. -/
opaque Config.payBufDraw : Nat → Byte

end Sys2Proof
end

