-- ==== Sys2Proof/Syntax.lean ====
section
/-! DEFINITION. The operations of the FSV: one constructor per row of the operation map (30_encoding R68,
spec/opcode_table.json), in the table's order. The FSV runs no program (00_scope R2): an `Instr` names what one
event does, as its 16-bit step key says (R65). -/

namespace Sys2Proof

/-- One row of the operation map with its operands. `b` is the accepted byte, `K[7:0]`. `q` is the key's state field,
`K[11:8]`, of a row whose mask leaves it free (the `ssss` of rows 16 to 21). -/
inductive Instr where
  /-- HDR_MATCH, row 1 (R80): the header byte found. -/
  | hdrMatch
  /-- HDR_SKIP, row 2 (R81): a pre-header byte discarded. -/
  | hdrSkip (b : Byte)
  /-- ADDR_TRL, row 3 (R90): trailer collision in the address. -/
  | addrTrl
  /-- ADDR_CAP, row 4 (R91): the address captured. -/
  | addrCap (b : Byte)
  /-- CMD_TRL, row 5 (R92): trailer collision in the command. -/
  | cmdTrl
  /-- CMD_CAP, row 6 (R93): the command captured. -/
  | cmdCap (b : Byte)
  /-- LENH_TRL, row 7 (R94): trailer collision in the length high byte. -/
  | lenhTrl
  /-- LENH_CAP, row 8 (R95): the length high byte captured. -/
  | lenhCap (b : Byte)
  /-- LENL_TRL, row 9 (R96): trailer collision in the length low byte, only where CHECK_LEN_LO is true. -/
  | lenlTrl
  /-- LENL_CAP, row 10 (R97): the length low byte captured, and the attempt routed on the length. -/
  | lenlCap (b : Byte)
  /-- PAY_TRL, row 11 (R110): trailer collision in the payload. -/
  | payTrl
  /-- PAY_CAP, row 12 (R111): a payload byte collected. -/
  | payCap (b : Byte)
  /-- CS_CAP, row 13 (R121): the checksum byte captured. -/
  | csCap (b : Byte)
  /-- TRL_MATCH, row 14 (R122): the trailer found, and the frame validated. -/
  | trlMatch
  /-- TRL_SKIP, row 15 (R123): a trailing-garbage byte discarded. -/
  | trlSkip (b : Byte)
  /-- ACK, row 16 (R140): the held outcome acknowledged. -/
  | ack (q : BitVec 4)
  /-- CANCEL, row 17 (R141): the attempt in progress aborted. -/
  | cancel (q : BitVec 4)
  /-- RESET, row 18 (R142): the block returned to its reset state. -/
  | reset (q : BitVec 4)
  /-- OUT_READ, row 19 (R143): the outcome ports read. -/
  | outRead (q : BitVec 4)
  /-- PAY_READ, row 20 (R144): one payload byte read, at the index on `pay_raddr`. -/
  | payRead (q : BitVec 4)
  /-- DBG_READ, row 21 (R145): the FSM state read. -/
  | dbgRead (q : BitVec 4)
  deriving DecidableEq, Repr

end Sys2Proof
end

