-- ==== Sys2Proof/WellFormed.lean ====
section
/-! DEFINITION. Which terms of `Instr` are operations of the map (30_encoding R68): a catch-all row is tried after the
exact-byte row of its state, so its operand is never the byte that row takes, and row 9 exists only where
CHECK_LEN_LO is true. The state field of rows 16 to 21 is free: their masks leave all sixteen values (R69). -/

namespace Sys2Proof

/-- The instruction is one the map can select under the parameters `cfg`. -/
def Instr.wf (cfg : Params) : Instr → Bool
  | .hdrMatch => true
  | .hdrSkip b => b != Config.hdr
  | .addrTrl => true
  | .addrCap b => b != Config.trl
  | .cmdTrl => true
  | .cmdCap b => b != Config.trl
  | .lenhTrl => true
  | .lenhCap b => b != Config.trl
  | .lenlTrl => cfg.checkLenLo
  | .lenlCap b => !(cfg.checkLenLo && b == Config.trl)
  | .payTrl => true
  | .payCap b => b != Config.trl
  | .csCap _ => true
  | .trlMatch => true
  | .trlSkip b => b != Config.trl
  | .ack _ => true
  | .cancel _ => true
  | .reset _ => true
  | .outRead _ => true
  | .payRead _ => true
  | .dbgRead _ => true

end Sys2Proof
end

