-- ==== Sys2Proof/Decode.lean ====
section
/-! DEFINITION. The step key (30_encoding R65 to R69): the codes of its class and state fields, the decoder, the
encoder, and the operation map as the spec's own rows of match and mask, which a statement compares the decoder
with. -/

namespace Sys2Proof

/-! ## FSM state codes (10_state R21) -/

/-- SYNC: the next byte is a candidate header. -/
def stSync : BitVec 4 := 0x0#4
/-- ADDR: the next byte is the address. -/
def stAddr : BitVec 4 := 0x1#4
/-- CMD: the next byte is the command. -/
def stCmd : BitVec 4 := 0x2#4
/-- LENH: the next byte is the length high byte. -/
def stLenh : BitVec 4 := 0x3#4
/-- LENL: the next byte is the length low byte. -/
def stLenl : BitVec 4 := 0x4#4
/-- PAYLOAD: the next byte is a payload byte. -/
def stPayload : BitVec 4 := 0x5#4
/-- CSUM: the next byte is the checksum. -/
def stCsum : BitVec 4 := 0x6#4
/-- TRAIL: the next byte is a candidate trailer. -/
def stTrail : BitVec 4 := 0x7#4
/-- DONE: an outcome is held, and no byte is accepted. -/
def stDone : BitVec 4 := 0x8#4

/-! ## Event classes (R66) -/

/-- BYTE: a byte is accepted. -/
def clsByte : BitVec 4 := 0x0#4
/-- ACK: the held outcome is acknowledged. -/
def clsAck : BitVec 4 := 0x1#4
/-- CANCEL: the attempt is cancelled. -/
def clsCancel : BitVec 4 := 0x2#4
/-- RESET: the block is reset. -/
def clsReset : BitVec 4 := 0x3#4
/-- OUT_READ: the consumer samples the outcome ports. -/
def clsOutRead : BitVec 4 := 0x4#4
/-- PAY_READ: the consumer samples `pay_rdata`. -/
def clsPayRead : BitVec 4 := 0x5#4
/-- DBG_READ: the consumer samples `dbg_state`. -/
def clsDbgRead : BitVec 4 := 0x6#4

/-! ## The key's fields (R65) -/

/-- The step key `{class, state, byte}`. -/
def key (cls st : BitVec 4) (b : Byte) : BitVec 16 := cls ++ st ++ b

/-- `K[15:12]`, the event class. -/
def keyClass (k : BitVec 16) : BitVec 4 := k.extractLsb' 12 4

/-- `K[11:8]`, the value of `st` before the step. -/
def keyState (k : BitVec 16) : BitVec 4 := k.extractLsb' 8 4

/-- `K[7:0]`, the accepted byte. -/
def keyByte (k : BitVec 16) : Byte := k.extractLsb' 0 8

/-! ## Decoding (R67) -/

/-- Why a key selects no row (R69). -/
inductive DecodeError where
  /-- Class BYTE in DONE: the byte is not accepted and waits at the front of the stream (R67, 93 S3). -/
  | noStepInDone
  /-- Class BYTE in a reserved state, 0x9 to 0xF, which no run reaches (R69, 93 S1). -/
  | reservedState (q : BitVec 4)
  /-- A class of 0x7 to 0xF, which no event of the hardware produces (R69, 93 S2). -/
  | reservedClass (c : BitVec 4)
  deriving DecidableEq, Repr

/-- Rows 1 to 15: what an accepted byte does in state `q`. The exact-byte row of a state is tried before its
catch-all row. -/
def decodeByte (cfg : Params) (q : BitVec 4) (b : Byte) : Except DecodeError Instr :=
  if q = stSync then .ok (if b = Config.hdr then .hdrMatch else .hdrSkip b)
  else if q = stAddr then .ok (if b = Config.trl then .addrTrl else .addrCap b)
  else if q = stCmd then .ok (if b = Config.trl then .cmdTrl else .cmdCap b)
  else if q = stLenh then .ok (if b = Config.trl then .lenhTrl else .lenhCap b)
  else if q = stLenl then .ok (if b = Config.trl ∧ cfg.checkLenLo = true then .lenlTrl else .lenlCap b)
  else if q = stPayload then .ok (if b = Config.trl then .payTrl else .payCap b)
  else if q = stCsum then .ok (.csCap b)
  else if q = stTrail then .ok (if b = Config.trl then .trlMatch else .trlSkip b)
  else if q = stDone then .error .noStepInDone
  else .error (.reservedState q)

/-- The operation of class `c` in state `q` on byte `b`. Rows 16 to 21 ignore the byte. -/
def decodeFields (cfg : Params) (c q : BitVec 4) (b : Byte) : Except DecodeError Instr :=
  if c = clsByte then decodeByte cfg q b
  else if c = clsAck then .ok (.ack q)
  else if c = clsCancel then .ok (.cancel q)
  else if c = clsReset then .ok (.reset q)
  else if c = clsOutRead then .ok (.outRead q)
  else if c = clsPayRead then .ok (.payRead q)
  else if c = clsDbgRead then .ok (.dbgRead q)
  else .error (.reservedClass c)

/-- The decoder: total on the 65536 keys; each selects one operation or has no step, by name (R67). -/
def decode (cfg : Params) (k : BitVec 16) : Except DecodeError Instr :=
  decodeFields cfg (keyClass k) (keyState k) (keyByte k)

/-! ## Encoding -/

/-- The event class of an instruction (R66). -/
def Instr.eventClass : Instr → BitVec 4
  | .hdrMatch => clsByte
  | .hdrSkip _ => clsByte
  | .addrTrl => clsByte
  | .addrCap _ => clsByte
  | .cmdTrl => clsByte
  | .cmdCap _ => clsByte
  | .lenhTrl => clsByte
  | .lenhCap _ => clsByte
  | .lenlTrl => clsByte
  | .lenlCap _ => clsByte
  | .payTrl => clsByte
  | .payCap _ => clsByte
  | .csCap _ => clsByte
  | .trlMatch => clsByte
  | .trlSkip _ => clsByte
  | .ack _ => clsAck
  | .cancel _ => clsCancel
  | .reset _ => clsReset
  | .outRead _ => clsOutRead
  | .payRead _ => clsPayRead
  | .dbgRead _ => clsDbgRead

/-- The FSM state an instruction runs in: fixed by the row for a byte operation, the key's field for the others. -/
def Instr.stateField : Instr → BitVec 4
  | .hdrMatch => stSync
  | .hdrSkip _ => stSync
  | .addrTrl => stAddr
  | .addrCap _ => stAddr
  | .cmdTrl => stCmd
  | .cmdCap _ => stCmd
  | .lenhTrl => stLenh
  | .lenhCap _ => stLenh
  | .lenlTrl => stLenl
  | .lenlCap _ => stLenl
  | .payTrl => stPayload
  | .payCap _ => stPayload
  | .csCap _ => stCsum
  | .trlMatch => stTrail
  | .trlSkip _ => stTrail
  | .ack q => q
  | .cancel q => q
  | .reset q => q
  | .outRead q => q
  | .payRead q => q
  | .dbgRead q => q

/-- The byte of an instruction's key: the accepted byte, and 0x00 for every class but BYTE (R65). -/
def Instr.byteField : Instr → Byte
  | .hdrMatch => Config.hdr
  | .hdrSkip b => b
  | .addrTrl => Config.trl
  | .addrCap b => b
  | .cmdTrl => Config.trl
  | .cmdCap b => b
  | .lenhTrl => Config.trl
  | .lenhCap b => b
  | .lenlTrl => Config.trl
  | .lenlCap b => b
  | .payTrl => Config.trl
  | .payCap b => b
  | .csCap b => b
  | .trlMatch => Config.trl
  | .trlSkip b => b
  | .ack _ => 0x00#8
  | .cancel _ => 0x00#8
  | .reset _ => 0x00#8
  | .outRead _ => 0x00#8
  | .payRead _ => 0x00#8
  | .dbgRead _ => 0x00#8

/-- The step key of an instruction. -/
def encode (i : Instr) : BitVec 16 := key i.eventClass i.stateField i.byteField

/-! ## The operation map as match and mask (R68) -/

/-- One row of R68. -/
structure OpRow where
  mnemonic : String
  pattern : BitVec 16
  mask : BitVec 16
  /-- The row's condition is `CHECK_LEN_LO = true` (row 9 alone). -/
  onlyCheckLenLo : Bool
  deriving DecidableEq, Repr

/-- The 21 rows of R68 in decoding order. -/
def opTable : List OpRow := [
  ⟨"HDR_MATCH", 0x00BB#16, 0xFFFF#16, false⟩,
  ⟨"HDR_SKIP", 0x0000#16, 0xFF00#16, false⟩,
  ⟨"ADDR_TRL", 0x017E#16, 0xFFFF#16, false⟩,
  ⟨"ADDR_CAP", 0x0100#16, 0xFF00#16, false⟩,
  ⟨"CMD_TRL", 0x027E#16, 0xFFFF#16, false⟩,
  ⟨"CMD_CAP", 0x0200#16, 0xFF00#16, false⟩,
  ⟨"LENH_TRL", 0x037E#16, 0xFFFF#16, false⟩,
  ⟨"LENH_CAP", 0x0300#16, 0xFF00#16, false⟩,
  ⟨"LENL_TRL", 0x047E#16, 0xFFFF#16, true⟩,
  ⟨"LENL_CAP", 0x0400#16, 0xFF00#16, false⟩,
  ⟨"PAY_TRL", 0x057E#16, 0xFFFF#16, false⟩,
  ⟨"PAY_CAP", 0x0500#16, 0xFF00#16, false⟩,
  ⟨"CS_CAP", 0x0600#16, 0xFF00#16, false⟩,
  ⟨"TRL_MATCH", 0x077E#16, 0xFFFF#16, false⟩,
  ⟨"TRL_SKIP", 0x0700#16, 0xFF00#16, false⟩,
  ⟨"ACK", 0x1000#16, 0xF000#16, false⟩,
  ⟨"CANCEL", 0x2000#16, 0xF000#16, false⟩,
  ⟨"RESET", 0x3000#16, 0xF000#16, false⟩,
  ⟨"OUT_READ", 0x4000#16, 0xF000#16, false⟩,
  ⟨"PAY_READ", 0x5000#16, 0xF000#16, false⟩,
  ⟨"DBG_READ", 0x6000#16, 0xF000#16, false⟩]

/-- The row takes the key: `(K & mask) = match`, and its condition holds (R67). -/
def rowTakes (cfg : Params) (k : BitVec 16) (r : OpRow) : Bool :=
  (k &&& r.mask == r.pattern) && (!r.onlyCheckLenLo || cfg.checkLenLo)

/-- The first row that takes the key (R67). -/
def firstRow (cfg : Params) (k : BitVec 16) : Option OpRow := opTable.find? (rowTakes cfg k)

/-- The mnemonic of an instruction, as the table spells it. -/
def Instr.mnemonic : Instr → String
  | .hdrMatch => "HDR_MATCH"
  | .hdrSkip _ => "HDR_SKIP"
  | .addrTrl => "ADDR_TRL"
  | .addrCap _ => "ADDR_CAP"
  | .cmdTrl => "CMD_TRL"
  | .cmdCap _ => "CMD_CAP"
  | .lenhTrl => "LENH_TRL"
  | .lenhCap _ => "LENH_CAP"
  | .lenlTrl => "LENL_TRL"
  | .lenlCap _ => "LENL_CAP"
  | .payTrl => "PAY_TRL"
  | .payCap _ => "PAY_CAP"
  | .csCap _ => "CS_CAP"
  | .trlMatch => "TRL_MATCH"
  | .trlSkip _ => "TRL_SKIP"
  | .ack _ => "ACK"
  | .cancel _ => "CANCEL"
  | .reset _ => "RESET"
  | .outRead _ => "OUT_READ"
  | .payRead _ => "PAY_READ"
  | .dbgRead _ => "DBG_READ"

/-! ## The host's view of the decoder -/

/-- The key whose bits are the low `nbits` bits of `w`, every higher bit 0. -/
def tableKey (nbits w : Nat) : BitVec 16 := BitVec.ofNat 16 (w % 2 ^ nbits)

/-- The key of row 9, which has a condition. -/
def lenlTrlKey : BitVec 16 := 0x047E#16

/-- The parameters under which the table's row for `k` applies: `cfg`, with CHECK_LEN_LO true for row 9's own key, whose
condition that is (R68; log entry 8). -/
def tableParams (cfg : Params) (k : BitVec 16) : Params :=
  if k = lenlTrlKey then { cfg with checkLenLo := true } else cfg

/-- The instruction the decoder reads from a key of the table. -/
def decodeTableWord (nbits w : Nat) : Option Instr :=
  match decode (tableParams Params.default (tableKey nbits w)) (tableKey nbits w) with
  | .ok i => some i
  | .error _ => none

end Sys2Proof
end

