-- ==== Sys2Proof/Machine/State.lean ====
section
/-! DEFINITION. The state of the FSV (10_state R20) with its parameters (00_scope R9), the environment's side of its ports
(30_encoding R74) and the reasons a step can stop. Plain data throughout. -/

namespace Sys2Proof.Machine

/-- The payload buffer's written bytes (R28): (index, byte) pairs, indices strictly rising. An index that is not listed
has been written by nothing and holds the free power-up draw (log entry 1). -/
abbrev Memory := List Host.Cell

/-- The seven outcome kinds (30_encoding R70). -/
inductive OutcomeKind where
  | ok
  | unexpectedTrailer
  | structuralMismatch
  | checksumMismatch
  | trailingGarbageSkipped
  | lengthOverCap
  | cancelled
  deriving DecidableEq, Repr

/-- The levels of the input ports at one rising edge of `clk` (30_encoding R74). `in_data` is the front of the stream. -/
structure Pins where
  rst : Bool
  cancel : Bool
  /-- `in_valid`: the byte source offers the front byte of the stream. -/
  inValid : Bool
  outReady : Bool
  payRaddr : BitVec 16
  deriving DecidableEq, Repr

/-- One move of the environment (00_scope R6, 20_memory R51). -/
inductive Stimulus where
  /-- The byte source offers one more byte, behind those it already offers (R40, R44). No register of the FSV changes. -/
  | offer (b : Byte)
  /-- The event of class `cls` is presented (30_encoding R66, R72), with `raddr` on `pay_raddr`. Classes 0x7 to 0xF are
  reserved, and a step refuses them by name (R69). -/
  | event (cls : BitVec 4) (raddr : BitVec 16)
  /-- A rising clock edge at these port levels: the handshake of R75 picks the event, or none. -/
  | edge (p : Pins)
  deriving DecidableEq, Repr

/-- What OUT_READ returns (45_control R143), field by field. -/
structure OutPorts where
  outValid : Bool
  outKind : BitVec 3
  outStage : BitVec 4
  outAddr : Byte
  outCmd : Byte
  outLen : BitVec 16
  outCs : Byte
  outCsCalc : Byte
  outNormal : Bool
  outSyncSkipped : BitVec 32
  deriving DecidableEq, Repr

/-- The value one interface read gave the consumer (45_control R143 to R145). -/
inductive Sample where
  | outcome (p : OutPorts)
  | payload (b : Byte)
  | debug (st : BitVec 4)
  deriving DecidableEq, Repr

/-- The state. The first block is the architectural state of R20, whole; the rest is the spec's ghost counter (R36), the
parameters (R9) and the environment's side, which R20 does not count as state of the FSV. -/
structure State where
  /-- `st`: the FSM state (R21). -/
  st : BitVec 4
  /-- `addr_r`: the captured address (R22). -/
  addrR : Byte
  /-- `cmd_r`: the captured command (R23). -/
  cmdR : Byte
  /-- `len_r`: the captured length (R24). -/
  lenR : BitVec 16
  /-- `cs_acc`: the checksum accumulator (R25, R120). -/
  csAcc : Byte
  /-- `cs_rx`: the received checksum (R26). -/
  csRx : Byte
  /-- `pay_idx`: payload bytes collected in this attempt (R27). -/
  payIdx : BitVec 16
  /-- `pay_buf`: the payload buffer (R28). -/
  payBuf : Memory
  /-- `normal`: no trailing garbage seen since the checksum byte (R29). -/
  normal : Bool
  /-- `sync_skipped`: bytes discarded in SYNC in this attempt (R30). -/
  syncSkipped : BitVec 32
  /-- `out_kind`: the kind of the held outcome (R31). -/
  outKind : BitVec 3
  /-- `out_stage`: the state in which the held outcome was decided (R32). -/
  outStage : BitVec 4
  /-- Ghost (R36): bytes accepted since reset. No output shows it. -/
  consumed : Nat
  /-- The parameters of R9. No step changes them. -/
  cfg : Params
  /-- The bytes the source offers and the FSV has not accepted, first byte first (R40, R44). -/
  stream : List Byte
  /-- The environment's coming moves, in order (R6; log entry 4). -/
  agenda : List Stimulus
  /-- The level of the input port `pay_raddr` (30_encoding R74; log entry 5). -/
  payRaddr : BitVec 16
  /-- The consumer's: the value its last interface read returned (R143 to R145; log entry 6). -/
  sampled : Option Sample
  deriving DecidableEq, Repr

/-- Why the machine stops with a fault. The FSV itself "raises no trap, interrupt or fault that stops it"
(60_exceptions R160); the one fault here is for a state no run reaches. -/
inductive Fault where
  /-- Raised by MemWrite (PAY_CAP) at an index the payload buffer does not have, `index >= PAYLOAD_CAP` (20_memory R40,
  43_payload R111). No reachable state raises it (R112). Safe: the model stops (log entry 7). -/
  | payloadIndexOutOfRange (index : BitVec 16)
  deriving DecidableEq, Repr

/-- Why a step or a launch is refused. -/
inductive Refusal where
  /-- An instruction that has no meaning yet: raised by an arm of `exec` alone, and no arm raises it. Safe. -/
  | notModelled (mnemonic : String)
  /-- Raised by `step` on a stimulus of class 0x7 to 0xF (30_encoding R69, 93 S2). Safe. -/
  | reservedClass (c : BitVec 4)
  /-- Raised by `step` on a BYTE event, and by `launch`, where `st` is 0x9 to 0xF (R39, R69, 93 S1). Safe. -/
  | reservedState (q : BitVec 4)
  /-- Raised by `launch` where `out_kind` is 7 (R70, 93 S4). Safe. -/
  | reservedOutcomeKind
  /-- Raised by `launch` where an invariant of R39 is broken (70_reset R183). Safe. -/
  | brokenInvariant
  deriving DecidableEq, Repr

/-- What a state's next environment move asks of the FSV. -/
inductive Chosen where
  /-- No event: the registers keep their values, and only the environment has moved. -/
  | noStep (s : State)
  /-- The operation `i` runs on `s`, the accepted byte already taken from the stream. -/
  | run (i : Instr) (s : State)
  /-- The stimulus or the state is outside the model's domain, by name. -/
  | refuse (r : Refusal)
  deriving DecidableEq, Repr

/-- The machine right after reset: every register at the reset value of R20 (70_reset R180), the parameters at the
defaults of R9, nothing written to the payload buffer, and no environment move pending. -/
def State.reset : State where
  st := 0x0#4
  addrR := 0x00#8
  cmdR := 0x00#8
  lenR := 0x0000#16
  csAcc := 0x00#8
  csRx := 0x00#8
  payIdx := 0x0000#16
  payBuf := []
  normal := false
  syncSkipped := 0x00000000#32
  outKind := 0#3
  outStage := 0x0#4
  consumed := 0
  cfg := Params.default
  stream := []
  agenda := []
  payRaddr := 0x0000#16
  sampled := none

end Sys2Proof.Machine
end

