-- ==== Sys2Proof/Machine/Flags.lean ====
section
/-! DEFINITION. The flag `normal` (10_state R29), the derived status signals (R33), the outcome codes (30_encoding R70) and
`Validate()` (44_checksum_trailer R124). -/

namespace Sys2Proof.Machine

/-- The code of an outcome kind (R70). Code 7 is reserved and never written. -/
def OutcomeKind.code : OutcomeKind → BitVec 3
  | .ok => 0#3
  | .unexpectedTrailer => 1#3
  | .structuralMismatch => 2#3
  | .checksumMismatch => 3#3
  | .trailingGarbageSkipped => 4#3
  | .lengthOverCap => 5#3
  | .cancelled => 6#3

/-- `st <= TRAIL`: an attempt is in progress (R33, R141). -/
def inDecodeState (s : State) : Bool := s.st ≤ stTrail

/-- `out_valid` (R33): an outcome is held. -/
def outValid (s : State) : Bool := s.st == stDone

/-- `in_ready` (R33) at the levels `rst` and `cancel` of the input ports. -/
def inReady (rst cancel : Bool) (s : State) : Bool := inDecodeState s && !rst && !cancel

/-- `dbg_state` (R33). -/
def dbgState (s : State) : BitVec 4 := s.st

/-- `normal <- v` (R29). -/
def setNormal (v : Bool) (s : State) : State := { s with normal := v }

/-- `Validate()` (R124): structure, then checksum, then trailing garbage. -/
def validate (s : State) : OutcomeKind :=
  if s.addrR ≠ Config.addrK ∨ s.cmdR ≠ Config.cmdK then .structuralMismatch
  else if s.csAcc ≠ s.csRx then .checksumMismatch
  else if s.normal = false then .trailingGarbageSkipped
  else .ok

end Sys2Proof.Machine
end

