-- ==== Sys2Proof/Machine/Operands.lean ====
section
/-! DEFINITION. The operand forms: the slices of the length register (42_field_capture R95, R97), the saturating count
(00_scope R12), the accumulated byte (44_checksum_trailer R120) and the front byte of the stream (20_memory R44). -/

namespace Sys2Proof.Machine

/-- `len_r[15:8]`. -/
def lenHigh (v : BitVec 16) : Byte := v.extractLsb' 8 8

/-- `len_r[7:0]`. -/
def lenLow (v : BitVec 16) : Byte := v.extractLsb' 0 8

/-- `len_r[15:8] <- b`: the other bits keep their values (R13, R95). -/
def withLenHigh (v : BitVec 16) (b : Byte) : BitVec 16 := b ++ lenLow v

/-- `len_r[7:0] <- b`: the other bits keep their values (R13, R97). -/
def withLenLow (v : BitVec 16) (b : Byte) : BitVec 16 := lenHigh v ++ b

/-- `sat32_inc` (R12): one more, held at 0xFFFFFFFF. -/
def sat32Inc (x : BitVec 32) : BitVec 32 := if x < 0xFFFFFFFF#32 then x + 1#32 else 0xFFFFFFFF#32

/-- The byte on `in_data`: the front of the stream, and 0x00 where nothing is offered (no event reads it then). -/
def frontByte (s : State) : Byte := s.stream.headD 0x00#8

end Sys2Proof.Machine
end

