-- ==== Sys2Proof/Machine/Ops.lean ====
section
/-! DEFINITION. The shared operations: the payload buffer (20_memory R43, R46), the outcome primitive `finish`
(60_exceptions R163), which is the FSV's exception entry, and `BeginAttempt` (10_state R35), its return (R164),
`ResetState` (70_reset R180), the acceptance of a byte (20_memory R44, 10_state R36) and the consumer's reads. -/

namespace Sys2Proof.Machine

/-! ## The payload buffer -/

/-- The byte stored at index `i`, if anything has written it. -/
def Memory.get? (i : Nat) : Memory → Option Byte
  | [] => none
  | (j, b) :: m => if i = j then some b else Memory.get? i m

/-- Store `b` at index `i`, keeping the indices rising. -/
def Memory.set (i : Nat) (b : Byte) : Memory → Memory
  | [] => [(i, b)]
  | (j, c) :: m => if i < j then (i, b) :: (j, c) :: m else if i = j then (i, b) :: m else (j, c) :: Memory.set i b m

/-- The canonical form: indices strictly rising. An entry is always a stored byte, and an unlisted index holds none, so
no entry repeats what an unlisted index holds (log entry 1). -/
abbrev Memory.wf (m : Memory) : Prop := m.Pairwise (fun a b => a.1 < b.1)

/-- The byte the buffer holds at index `i`: the last byte written there, else the free power-up draw (R28). -/
def bufferByte (m : Memory) (i : Nat) : Byte := (Memory.get? i m).getD (Config.payBufDraw i)

/-- `MemRead(i, 1)` (R46): 0x00 at an index that no storage backs. -/
def memRead (i : BitVec 16) (s : State) : Byte :=
  if i < s.cfg.payloadCap then bufferByte s.payBuf i.toNat else 0x00#8

/-- `MemWrite(i, 1, b)` (R43). The buffer has the indices `0 .. PAYLOAD_CAP-1` and no other (R40). -/
def memWrite (i : BitVec 16) (b : Byte) (s : State) : Host.Outcome State Fault Refusal :=
  if i < s.cfg.payloadCap then .next { s with payBuf := Memory.set i.toNat b s.payBuf }
  else .fault (.payloadIndexOutOfRange i)

/-- Go on from a next state, and stop where the outcome stops. -/
def andThen (o : Host.Outcome State Fault Refusal) (f : State → Host.Outcome State Fault Refusal) :
    Host.Outcome State Fault Refusal :=
  match o with
  | .next s => f s
  | .fault r => .fault r
  | .refused r => .refused r

/-! ## Registers -/

/-- `st <- q` (R13). -/
def enter (q : BitVec 4) (s : State) : State := { s with st := q }

/-- `cs_acc <- cs_acc +8 b` (R120). -/
def accumulate (b : Byte) (s : State) : State := { s with csAcc := s.csAcc + b }

/-! ## Outcome entry and return -/

/-- `finish(k)` (R163): the only way into DONE. The stage is the state the deciding step ran in; the captured registers stay
as they were. -/
def finish (k : OutcomeKind) (s : State) : State :=
  { s with outKind := k.code, outStage := s.st, st := stDone }

/-- `BeginAttempt()` (R35): every per-attempt register cleared, SYNC entered, the payload buffer not touched. -/
def beginAttempt (s : State) : State :=
  { s with
    addrR := 0x00#8, cmdR := 0x00#8, lenR := 0x0000#16, csAcc := 0x00#8, csRx := 0x00#8, payIdx := 0x0000#16,
    normal := false, syncSkipped := 0x00000000#32, outKind := 0#3, outStage := 0x0#4, st := stSync }

/-- `ResetState()` (R180): the registers as BeginAttempt leaves them, the payload buffer not written, and the ghost counter
of bytes "since reset" at 0 (R36; log entry 3). -/
def resetState (s : State) : State := { beginAttempt s with consumed := 0 }

/-! ## The stream -/

/-- A BYTE step takes the front byte of the stream and counts it (R36, R44). -/
def accept (s : State) : State := { s with stream := s.stream.tail, consumed := s.consumed + 1 }

/-! ## The consumer's reads -/

/-- The outcome ports (R143). -/
def outPorts (s : State) : OutPorts where
  outValid := outValid s
  outKind := s.outKind
  outStage := s.outStage
  outAddr := s.addrR
  outCmd := s.cmdR
  outLen := s.lenR
  outCs := s.csRx
  outCsCalc := s.csAcc
  outNormal := s.normal
  outSyncSkipped := s.syncSkipped

/-- `pay_rdata` (R34): the byte at the index on `pay_raddr`. -/
def payRdata (s : State) : Byte := memRead s.payRaddr s

/-- The consumer keeps what a read returned; no register of the FSV changes (log entry 6). -/
def record (v : Sample) (s : State) : State := { s with sampled := some v }

end Sys2Proof.Machine
end

