-- ==== Sys2Proof/Machine/ChecksumTrailer.lean ====
section
/-! DEFINITION. The checksum byte, the trailer search and the validation: the operations of a byte in CSUM and TRAIL
(44_checksum_trailer). -/

namespace Sys2Proof.Machine

/-- CS_CAP (R121): any byte is the checksum, 0x7E too, and it is not in the sum. -/
def execCsCap (b : Byte) (s : State) : Host.Outcome State Fault Refusal :=
  .next (enter stTrail (setNormal true { s with csRx := b }))

/-- TRL_MATCH (R122): the outcome is what Validate returns. -/
def execTrlMatch (s : State) : Host.Outcome State Fault Refusal :=
  .next (finish (validate s) s)

/-- TRL_SKIP (R123): the byte is discarded, and only `normal` remembers it. -/
def execTrlSkip (_b : Byte) (s : State) : Host.Outcome State Fault Refusal :=
  .next (setNormal false s)

end Sys2Proof.Machine
end

