-- ==== Sys2Proof/Machine/Control.lean ====
section
/-! DEFINITION. Control events and interface reads (45_control). -/

namespace Sys2Proof.Machine

/-- ACK (R140): the return from an outcome; no effect where none is held (92 D15). -/
def execAck (s : State) : Host.Outcome State Fault Refusal :=
  .next (if s.st = stDone then beginAttempt s else s)

/-- CANCEL (R141): an attempt in progress ends as CANCELLED; no effect in DONE. -/
def execCancel (s : State) : Host.Outcome State Fault Refusal :=
  .next (if s.st ≤ stTrail then finish .cancelled s else s)

/-- RESET (R142). -/
def execReset (s : State) : Host.Outcome State Fault Refusal :=
  .next (resetState s)

/-- OUT_READ (R143): the consumer gets the outcome ports. -/
def execOutRead (s : State) : Host.Outcome State Fault Refusal :=
  .next (record (.outcome (outPorts s)) s)

/-- PAY_READ (R144): the consumer gets the byte at the index on `pay_raddr`. -/
def execPayRead (s : State) : Host.Outcome State Fault Refusal :=
  .next (record (.payload (payRdata s)) s)

/-- DBG_READ (R145): the consumer gets the FSM state. -/
def execDbgRead (s : State) : Host.Outcome State Fault Refusal :=
  .next (record (.debug (dbgState s)) s)

end Sys2Proof.Machine
end

