-- ==== Sys2Proof/Machine/FieldCapture.lean ====
section
/-! DEFINITION. Field capture: the operations of a byte in ADDR, CMD, LENH and LENL (42_field_capture). A colliding byte is
stored in no register (92 D8). -/

namespace Sys2Proof.Machine

/-- ADDR_TRL (R90). -/
def execAddrTrl (s : State) : Host.Outcome State Fault Refusal :=
  .next (finish .unexpectedTrailer s)

/-- ADDR_CAP (R91). The address is compared with ADDR_K only at the trailer (R124). -/
def execAddrCap (b : Byte) (s : State) : Host.Outcome State Fault Refusal :=
  .next (enter stCmd (accumulate b { s with addrR := b }))

/-- CMD_TRL (R92). -/
def execCmdTrl (s : State) : Host.Outcome State Fault Refusal :=
  .next (finish .unexpectedTrailer s)

/-- CMD_CAP (R93). -/
def execCmdCap (b : Byte) (s : State) : Host.Outcome State Fault Refusal :=
  .next (enter stLenh (accumulate b { s with cmdR := b }))

/-- LENH_TRL (R94). -/
def execLenhTrl (s : State) : Host.Outcome State Fault Refusal :=
  .next (finish .unexpectedTrailer s)

/-- LENH_CAP (R95). -/
def execLenhCap (b : Byte) (s : State) : Host.Outcome State Fault Refusal :=
  .next (enter stLenl (accumulate b { s with lenR := withLenHigh s.lenR b }))

/-- LENL_TRL (R96), selected only where CHECK_LEN_LO is true. -/
def execLenlTrl (s : State) : Host.Outcome State Fault Refusal :=
  .next (finish .unexpectedTrailer s)

/-- Where a complete length leads (R97): over the cap, to the checksum, or to the payload. -/
def routeLength (s : State) : State :=
  if s.lenR > s.cfg.payloadCap then finish .lengthOverCap s
  else if s.lenR = 0x0000#16 then enter stCsum s
  else enter stPayload s

/-- LENL_CAP (R97). -/
def execLenlCap (b : Byte) (s : State) : Host.Outcome State Fault Refusal :=
  .next (routeLength (accumulate b { s with lenR := withLenLow s.lenR b }))

end Sys2Proof.Machine
end

