-- ==== Sys2Proof/Machine/HeaderSync.lean ====
section
/-! DEFINITION. Header synchronisation: the operations of a byte in SYNC (41_header_sync). -/

namespace Sys2Proof.Machine

/-- HDR_MATCH (R80): the header starts the frame; it is not stored and not summed. -/
def execHdrMatch (s : State) : Host.Outcome State Fault Refusal :=
  .next (enter stAddr s)

/-- HDR_SKIP (R81): the byte is discarded and counted; whatever it is, no outcome arises (90_conflicts C2). -/
def execHdrSkip (_b : Byte) (s : State) : Host.Outcome State Fault Refusal :=
  .next { s with syncSkipped := sat32Inc s.syncSkipped }

end Sys2Proof.Machine
end

