-- ==== Sys2Proof/Machine/Payload.lean ====
section
/-! DEFINITION. Payload collection: the operations of a byte in PAYLOAD (43_payload). -/

namespace Sys2Proof.Machine

/-- PAY_TRL (R110): the colliding byte is not stored. -/
def execPayTrl (s : State) : Host.Outcome State Fault Refusal :=
  .next (finish .unexpectedTrailer s)

/-- `pay_idx <- pay_idx + 1`, and CSUM once the declared length is reached (R111). -/
def advancePayload (s : State) : State :=
  if s.payIdx + 1#16 = s.lenR then enter stCsum { s with payIdx := s.payIdx + 1#16 }
  else { s with payIdx := s.payIdx + 1#16 }

/-- PAY_CAP (R111). -/
def execPayCap (b : Byte) (s : State) : Host.Outcome State Fault Refusal :=
  andThen (memWrite s.payIdx b s) (fun t => .next (advancePayload (accumulate b t)))

end Sys2Proof.Machine
end

