-- ==== Sys2Proof/Machine/Dispatch.lean ====
section
/-! DEFINITION. exec: one arm per row of the operation map (30_encoding R68). The state field of rows 16 to 21 names the
state the event is taken in; the meanings read the register `st` itself (R140 to R145; log entry 9). -/

namespace Sys2Proof.Machine

def exec (i : Instr) (s : State) : Host.Outcome State Fault Refusal :=
  match i with
  | .hdrMatch => Sys2Proof.Machine.execHdrMatch s
  | .hdrSkip b => Sys2Proof.Machine.execHdrSkip b s
  | .addrTrl => Sys2Proof.Machine.execAddrTrl s
  | .addrCap b => Sys2Proof.Machine.execAddrCap b s
  | .cmdTrl => Sys2Proof.Machine.execCmdTrl s
  | .cmdCap b => Sys2Proof.Machine.execCmdCap b s
  | .lenhTrl => Sys2Proof.Machine.execLenhTrl s
  | .lenhCap b => Sys2Proof.Machine.execLenhCap b s
  | .lenlTrl => Sys2Proof.Machine.execLenlTrl s
  | .lenlCap b => Sys2Proof.Machine.execLenlCap b s
  | .payTrl => Sys2Proof.Machine.execPayTrl s
  | .payCap b => Sys2Proof.Machine.execPayCap b s
  | .csCap b => Sys2Proof.Machine.execCsCap b s
  | .trlMatch => Sys2Proof.Machine.execTrlMatch s
  | .trlSkip b => Sys2Proof.Machine.execTrlSkip b s
  | .ack _ => Sys2Proof.Machine.execAck s
  | .cancel _ => Sys2Proof.Machine.execCancel s
  | .reset _ => Sys2Proof.Machine.execReset s
  | .outRead _ => Sys2Proof.Machine.execOutRead s
  | .payRead _ => Sys2Proof.Machine.execPayRead s
  | .dbgRead _ => Sys2Proof.Machine.execDbgRead s

end Sys2Proof.Machine
end

