-- ==== Sys2Proof/Machine/Handshake.lean ====
section
/-! DEFINITION. How the environment's next move becomes an operation: the handshake at a clock edge (30_encoding R75), the
step key it forms (R65) and the row that key selects (R67). -/

namespace Sys2Proof.Machine

/-- The port side of a move: a byte offered by the source, or the index the consumer drives on `pay_raddr` (R74). -/
def present (m : Stimulus) (s : State) : State :=
  match m with
  | .offer b => { s with stream := s.stream ++ [b] }
  | .event _ i => { s with payRaddr := i }
  | .edge p => { s with payRaddr := p.payRaddr }

/-- The event of a clock edge at the levels `p`: RESET, then CANCEL, then ACK, then BYTE, or none (R75). -/
def arbitrate (p : Pins) (s : State) : Option (BitVec 4) :=
  if p.rst = true then some clsReset
  else if p.cancel = true ∧ s.st ≤ stTrail then some clsCancel
  else if outValid s = true ∧ p.outReady = true then some clsAck
  else if p.inValid = true ∧ s.stream ≠ [] ∧ inReady p.rst p.cancel s = true then some clsByte
  else none

/-- The class of the event a move asks for. Offering a byte is no event of the FSV, and a BYTE event needs an offered byte
(R44, R146). -/
def request (m : Stimulus) (s : State) : Option (BitVec 4) :=
  match m with
  | .offer _ => none
  | .event c _ => if c = clsByte ∧ s.stream = [] then none else some c
  | .edge p => arbitrate p s

/-- The step key of an event of class `c` (R65): the byte field is the offered byte for BYTE, else 0x00. -/
def stepKey (c : BitVec 4) (s : State) : BitVec 16 :=
  key c s.st (if c = clsByte then frontByte s else 0x00#8)

/-- A BYTE step takes the byte from the stream; no other event does (R44). -/
def admitByte (c : BitVec 4) (s : State) : State := if c = clsByte then accept s else s

/-- The operation an event of class `c` selects (R67), no step for a byte in DONE (93 S3), or a refusal by name (R69). -/
def chooseEvent (c : BitVec 4) (s : State) : Chosen :=
  match decode s.cfg (stepKey c s) with
  | .ok i => .run i (admitByte c s)
  | .error .noStepInDone => .noStep s
  | .error (.reservedState q) => .refuse (.reservedState q)
  | .error (.reservedClass d) => .refuse (.reservedClass d)

/-- The environment's next move, taken from the agenda. With none pending the FSV waits, and waiting is no step (R146). -/
def choose (s : State) : Chosen :=
  match s.agenda with
  | [] => .noStep s
  | m :: rest =>
    match request m (present m { s with agenda := rest }) with
    | none => .noStep (present m { s with agenda := rest })
    | some c => chooseEvent c (present m { s with agenda := rest })

/-- `s` with the event of key `k` as its next move: `st` is the key's state field, the byte of a BYTE key stands at the front
of the stream, and row 9's own key has its condition (log entry 8). Everything else stays. -/
def placeKey (k : BitVec 16) (s : State) : State :=
  { s with
    st := keyState k
    stream := if keyClass k = clsByte then keyByte k :: s.stream else s.stream
    agenda := .event (keyClass k) s.payRaddr :: s.agenda
    cfg := tableParams s.cfg k }

end Sys2Proof.Machine
end

