-- ==== Sys2Proof/Machine/Step.lean ====
section
/-! DEFINITION. One step: the environment's next move and the operation it selects (00_scope R6). -/

namespace Sys2Proof.Machine

/-- One move of the environment, and the FSV's operation where the move is an event. -/
def step (s : State) : Host.Outcome State Fault Refusal :=
  match choose s with
  | .noStep t => .next t
  | .run i t => exec i t
  | .refuse r => .refused r

/-- `s` with the table word `w` as its next event. -/
def State.withFetchWord (s : State) (nbits w : Nat) : State := placeKey (tableKey nbits w) s

end Sys2Proof.Machine
end

