-- ==== Sys2Proof/Machine/Wire.lean ====
section
/-! DEFINITION. The wire frame (30_encoding R60 to R63), the stimulus form `frame(...)` of the document's encode-side helper
(R73) and the stimulus items of R72. The machine does not run on them; they say what the environment sends it. -/

namespace Sys2Proof.Machine

/-- The `+8` sum of a list of bytes (R62). -/
def byteSum : List Byte → Byte
  | [] => 0x00#8
  | b :: bs => b + byteSum bs

/-- The length field of a payload: its byte count as a 16-bit value (R61, R73). -/
def lengthField (p : List Byte) : BitVec 16 := BitVec.ofNat 16 p.length

/-- The correct checksum of a frame (R62). -/
def wireChecksum (a c : Byte) (p : List Byte) : Byte :=
  a + c + lenHigh (lengthField p) + lenLow (lengthField p) + byteSum p

/-- `frame(a, c, p, cs = x, garbage = g)` (R73): the bytes on the wire, first byte first, with any checksum and any garbage
before the trailer. -/
def frameWith (a c : Byte) (p : List Byte) (x : Byte) (g : List Byte) : List Byte :=
  [Config.hdr, a, c, lenHigh (lengthField p), lenLow (lengthField p)] ++ p ++ [x] ++ g ++ [Config.trl]

/-- `frame(a, c, p)` (R73): the checksum is the correct one. -/
def frame (a c : Byte) (p : List Byte) : List Byte := frameWith a c p (wireChecksum a c p) []

/-- `ok_frame(p)` (R73). -/
def okFrame (p : List Byte) : List Byte := frame Config.addrK Config.cmdK p

/-- One item of a stimulus (R72). -/
inductive Item where
  /-- `XX`: the source offers a byte. -/
  | byte (b : Byte)
  /-- `n*XX`: `n` copies of a byte. -/
  | copies (n : Nat) (b : Byte)
  | ack
  | cancel
  | reset
  /-- `read`: sample the outcome ports. -/
  | read
  /-- `read_pay i`: sample `pay_rdata` for the index `i`. -/
  | readPay (i : BitVec 16)
  deriving DecidableEq, Repr

/-- A byte is offered, and the FSV takes the front byte if it is ready (R72). -/
def byteMoves (r : BitVec 16) (b : Byte) : List Stimulus := [.offer b, .event clsByte r]

/-- The environment's moves for a stimulus (R72). `w` bounds the bytes that may wait at the front of the stream, which are
offered again once an ACK or a RESET lets the FSV accept; `r` is the level on `pay_raddr`. -/
def agendaOf (w : Nat) (r : BitVec 16) : List Item → List Stimulus
  | [] => []
  | .byte b :: is => byteMoves r b ++ agendaOf (w + 1) r is
  | .copies n b :: is => (List.replicate n (byteMoves r b)).flatten ++ agendaOf (w + n) r is
  | .ack :: is => .event clsAck r :: List.replicate w (.event clsByte r) ++ agendaOf w r is
  | .cancel :: is => .event clsCancel r :: agendaOf w r is
  | .reset :: is => .event clsReset r :: List.replicate w (.event clsByte r) ++ agendaOf w r is
  | .read :: is => .event clsOutRead r :: agendaOf w r is
  | .readPay i :: is => .event clsPayRead i :: agendaOf w i is

end Sys2Proof.Machine
end

