-- ==== Sys2Proof/Safety.lean ====
section
/-! DEFINITION. What claims speak of: the invariants of every reachable state (10_state R39), which states a run may be launched
from (70_reset R183), the frame record (44_checksum_trailer R125) and what is observed of a run (00_scope R7). -/

namespace Sys2Proof.Machine

/-! ## Invariants of a reachable state -/

/-- The `+8` sum of the first `n` bytes of the payload buffer (R120). -/
def payloadSum (m : Memory) : Nat → Byte
  | 0 => 0x00#8
  | n + 1 => payloadSum m n + bufferByte m n

/-- What the registers hold while the attempt is in state `q` (R22 to R27, R29, R39): nothing that is not captured yet, and the
index in step with the length. -/
abbrev Shape (q : BitVec 4) (s : State) : Prop :=
  (q ≤ stAddr → s.addrR = 0x00#8) ∧
  (q ≤ stCmd → s.cmdR = 0x00#8) ∧
  (q ≤ stLenh → s.lenR = 0x0000#16) ∧
  (q = stLenl → lenLow s.lenR = 0x00#8) ∧
  (q ≤ stLenl → s.payIdx = 0x0000#16) ∧
  (q = stPayload → s.payIdx < s.lenR ∧ s.lenR ≤ s.cfg.payloadCap) ∧
  (q = stCsum ∨ q = stTrail → s.payIdx = s.lenR ∧ s.lenR ≤ s.cfg.payloadCap) ∧
  (q ≤ stCsum → s.csRx = 0x00#8 ∧ s.normal = false)

/-- The kinds and stages that occur together (30_encoding R71). -/
abbrev StageLegal (s : State) : Prop :=
  (s.outKind = OutcomeKind.code .unexpectedTrailer ∧
    (s.outStage = stAddr ∨ s.outStage = stCmd ∨ s.outStage = stLenh ∨ (s.outStage = stLenl ∧ s.cfg.checkLenLo = true) ∨
      s.outStage = stPayload)) ∨
  (s.outKind = OutcomeKind.code .lengthOverCap ∧ s.outStage = stLenl) ∨
  ((s.outKind = OutcomeKind.code .ok ∨ s.outKind = OutcomeKind.code .structuralMismatch ∨
      s.outKind = OutcomeKind.code .checksumMismatch ∨ s.outKind = OutcomeKind.code .trailingGarbageSkipped) ∧
    s.outStage = stTrail) ∨
  (s.outKind = OutcomeKind.code .cancelled ∧ s.outStage ≤ stTrail)

/-- The attempt in progress (R21, R31, R32): a decode state, its registers in shape, and no outcome. -/
abbrev AttemptInv (s : State) : Prop :=
  s.st ≤ stTrail → Shape s.st s ∧ s.outKind = 0#3 ∧ s.outStage = 0x0#4

/-- The kind and the stage of a held outcome go together (R71). -/
abbrev OutcomeCodesInv (s : State) : Prop := s.st = stDone → StageLegal s

/-- The registers of a held outcome (60_exceptions R162): as its stage left them, and for an over-cap length the length over the cap
and nothing collected. -/
abbrev OutcomeFieldsInv (s : State) : Prop :=
  s.st = stDone →
    if s.outKind = OutcomeKind.code .lengthOverCap then
      s.lenR > s.cfg.payloadCap ∧ s.payIdx = 0x0000#16 ∧ s.csRx = 0x00#8 ∧ s.normal = false
    else Shape s.outStage s

/-- A held outcome decided at the trailer has the kind Validate returns (44_checksum_trailer R122, R124). -/
abbrev ValidatedInv (s : State) : Prop :=
  s.st = stDone → s.outStage = stTrail → s.outKind ≠ OutcomeKind.code .cancelled → s.outKind = (validate s).code

/-- The payload buffer (R28, 43_payload R112): in canonical form, within the capacity, and the collected bytes written, none of them
the trailer. -/
abbrev BufferInv (s : State) : Prop :=
  Memory.wf s.payBuf ∧
  (∀ e ∈ s.payBuf, e.1 < s.cfg.payloadCap.toNat) ∧
  s.payIdx ≤ s.cfg.payloadCap ∧
  (∀ i < s.payIdx.toNat, (Memory.get? i s.payBuf).any (fun b => b != Config.trl) = true)

/-- A checked field never holds the trailer constant (42_field_capture R98). -/
abbrev FieldInv (s : State) : Prop :=
  s.addrR ≠ Config.trl ∧ s.cmdR ≠ Config.trl ∧ lenHigh s.lenR ≠ Config.trl ∧
  (s.cfg.checkLenLo = true → lenLow s.lenR ≠ Config.trl)

/-- The checksum accumulator is the sum of what is captured (R25, R39). -/
abbrev SumInv (s : State) : Prop :=
  s.csAcc = s.addrR + s.cmdR + lenHigh s.lenR + lenLow s.lenR + payloadSum s.payBuf s.payIdx.toNat

/-- What holds of every reachable state (R39, with R27, R31, R71, R98, R112 and 60_exceptions R162). -/
structure ReachInv (s : State) : Prop where
  state : s.st ≤ stDone
  attempt : AttemptInv s
  codes : OutcomeCodesInv s
  fields : OutcomeFieldsInv s
  validated : ValidatedInv s
  buffer : BufferInv s
  captured : FieldInv s
  sum : SumInv s

/-- `ReachInv`, computed. -/
def invHolds (s : State) : Bool :=
  decide (s.st ≤ stDone) && decide (AttemptInv s) && decide (OutcomeCodesInv s) && decide (OutcomeFieldsInv s) &&
    decide (ValidatedInv s) && decide (BufferInv s) && decide (FieldInv s) && decide (SumInv s)

/-- A launch state (70_reset R182, R183): refused by name where `st` or `out_kind` is reserved or an invariant is broken
(30_encoding R69). -/
def launch (s : State) : Host.Outcome State Fault Refusal :=
  if s.st > stDone then .refused (.reservedState s.st)
  else if s.outKind = 7#3 then .refused .reservedOutcomeKind
  else if invHolds s = true then .next s
  else .refused .brokenInvariant

/-! ## What is observed -/

/-- The frame record of an OK outcome (R125): the document's fields. -/
structure Frame where
  address : Byte
  command : Byte
  length : BitVec 16
  payload : List Byte
  checksum : Byte
  deriving DecidableEq, Repr

/-- `[MemRead(0,1), ..., MemRead(out_len-1,1)]` (R125). -/
def payloadBytes (s : State) : List Byte :=
  (List.range s.lenR.toNat).map (fun i => memRead (BitVec.ofNat 16 i) s)

/-- The consumer's frame where an OK outcome is held (R125). -/
def frameOf (s : State) : Option Frame :=
  if s.st = stDone ∧ s.outKind = OutcomeKind.code .ok then
    some { address := s.addrR, command := s.cmdR, length := s.lenR, payload := payloadBytes s, checksum := s.csRx }
  else none

/-- One observed outcome (R7): the tuple OUT_READ reads, and for OK the frame. -/
structure Presented where
  ports : OutPorts
  frame : Option Frame
  deriving DecidableEq, Repr

/-- The outcome a state presents. -/
def presented (s : State) : Presented := { ports := outPorts s, frame := frameOf s }

/-- The outcomes of the next `k` steps, in order (R7): one for each step that enters DONE. -/
def outcomesOf : Nat → State → List Presented
  | 0, _ => []
  | k + 1, s =>
    match step s with
    | .next t => if s.st ≠ stDone ∧ t.st = stDone then presented t :: outcomesOf k t else outcomesOf k t
    | .fault _ => []
    | .refused _ => []

end Sys2Proof.Machine
end

