-- ==== Sys2Proof/Certificates/Slice0/Obligations.lean ====
section
/-! DEFINITION. The statements about the FSV, each a proposition the provers settle. Each docstring names the rules of spec/ it
formalises. A state is any state whatever unless a premise says otherwise; `ReachInv` is the invariant of reachable states, a
statement of its own. -/

open Sys2Proof Sys2Proof.Machine

/-! ## The step key -/

/-- R65, R66, R68: some keys written out from the map's patterns, the condition of row 9 both ways, and the keys with no row. -/
def Obligations.WrittenOutKeysDecode : Prop :=
  ∀ cap : BitVec 16,
    decode ⟨cap, false⟩ 0b0000000010111011#16 = .ok .hdrMatch ∧
    decode ⟨cap, false⟩ 0b0000000010101010#16 = .ok (.hdrSkip 0xAA#8) ∧
    decode ⟨cap, false⟩ 0b0000000100000010#16 = .ok (.addrCap 0x02#8) ∧
    decode ⟨cap, false⟩ 0b0000001101111110#16 = .ok .lenhTrl ∧
    decode ⟨cap, false⟩ 0b0000010001111110#16 = .ok (.lenlCap 0x7E#8) ∧
    decode ⟨cap, true⟩ 0b0000010001111110#16 = .ok .lenlTrl ∧
    decode ⟨cap, true⟩ 0b0000010100010000#16 = .ok (.payCap 0x10#8) ∧
    decode ⟨cap, true⟩ 0b0000011001111110#16 = .ok (.csCap 0x7E#8) ∧
    decode ⟨cap, true⟩ 0b0000011101111110#16 = .ok .trlMatch ∧
    decode ⟨cap, true⟩ 0b0001100000000000#16 = .ok (.ack 0x8#4) ∧
    decode ⟨cap, true⟩ 0b0101100000000000#16 = .ok (.payRead 0x8#4) ∧
    decode ⟨cap, true⟩ 0b0000100010101010#16 = .error .noStepInDone ∧
    decode ⟨cap, true⟩ 0b0000100100000000#16 = .error (.reservedState 0x9#4) ∧
    decode ⟨cap, true⟩ 0b0111000000000000#16 = .error (.reservedClass 0x7#4)

/-- R65, R68: decoding the key of a well-formed instruction gives it back, with every operand at every value. -/
def Obligations.DecodeOfEncodeIsTheInstruction : Prop :=
  ∀ (cfg : Params) (i : Instr), i.wf cfg = true → decode cfg (encode i) = .ok i

/-- R65, R68: what the decoder gives is well-formed, and its key is the one read, but for the byte that a class other than BYTE
ignores. -/
def Obligations.EncodeOfDecodeIsTheKey : Prop :=
  ∀ (cfg : Params) (k : BitVec 16) (i : Instr), decode cfg k = .ok i →
    i.wf cfg = true ∧
    encode i = (if keyClass k = 0x0#4 then k else k &&& 0xFF00#16)

/-- R67, R68: the decoder gives the first row of the map that takes the key, and has no step where no row does. With CHECK_LEN_LO
false, row 9 never applies, and the key 0x047E selects row 10. -/
def Obligations.DecoderFollowsTheOperationMap : Prop :=
  (∀ (cfg : Params) (k : BitVec 16),
    (∀ i, decode cfg k = .ok i → (firstRow cfg k).map OpRow.mnemonic = some i.mnemonic) ∧
    (∀ e, decode cfg k = .error e → firstRow cfg k = none)) ∧
  (∀ (cfg : Params) (k : BitVec 16), cfg.checkLenLo = false → decode cfg k ≠ .ok .lenlTrl) ∧
  (∀ cfg : Params, cfg.checkLenLo = false → decode cfg 0x047E#16 = .ok (.lenlCap 0x7E#8))

/-- R69: which keys have no step; classes 0x1 to 0x6 match their rows in every state; a reserved launch state and a stimulus of a
reserved class are refused by name. -/
def Obligations.ReservedKeysAndCodesAreRefused : Prop :=
  (∀ (cfg : Params) (q : BitVec 4) (b : Byte), decode cfg (key clsByte q b) = .error .noStepInDone ↔ q = 0x8#4) ∧
  (∀ (cfg : Params) (q : BitVec 4) (b : Byte), decode cfg (key clsByte q b) = .error (.reservedState q) ↔ 0x9#4 ≤ q) ∧
  (∀ (cfg : Params) (c q : BitVec 4) (b : Byte), 0x1#4 ≤ c → c ≤ 0x6#4 →
    ∃ i, decode cfg (key c q b) = .ok i ∧ i.eventClass = c ∧ i.stateField = q) ∧
  (∀ (cfg : Params) (c q : BitVec 4) (b : Byte), 0x7#4 ≤ c → decode cfg (key c q b) = .error (.reservedClass c)) ∧
  (∀ s : State, 0x9#4 ≤ s.st → launch s = .refused (.reservedState s.st)) ∧
  (∀ (s : State) (c : BitVec 4) (r : BitVec 16) (rest : List Stimulus), s.agenda = .event c r :: rest → 0x7#4 ≤ c →
    step s = .refused (.reservedClass c))

/-! ## One step -/

/-- R6, R36, R44, R65: where the next move asks for an event of class `c` and its key decodes to `i`, the step is `exec i` on the
state the move leaves; an accepted byte has been taken from the stream and counted. -/
def Obligations.StepRunsTheDecodedInstruction : Prop :=
  ∀ (s u : State) (m : Stimulus) (rest : List Stimulus) (c : BitVec 4) (i : Instr),
    s.agenda = m :: rest → u = present m { s with agenda := rest } → request m u = some c →
    decode u.cfg (key c u.st (if c = clsByte then u.stream.headD 0x00#8 else 0x00#8)) = .ok i →
    step s = exec i (if c = clsByte then { u with stream := u.stream.tail, consumed := u.consumed + 1 } else u)

/-- R65, R68: a word of the table placed as the next event is the instruction the next step runs. The parameter that row 9 needs, and
nothing else of the configuration, is set for row 9's own key (the model's choice, log entry 8). -/
def Obligations.PlacedWordRunsNext : Prop :=
  ∀ (s : State) (w : Nat) (i : Instr), w < 65536 →
    decode (tableParams s.cfg (BitVec.ofNat 16 w)) (BitVec.ofNat 16 w) = .ok i →
    step (s.withFetchWord 16 w) =
      exec i { s with
        st := keyState (BitVec.ofNat 16 w)
        cfg := tableParams s.cfg (BitVec.ofNat 16 w)
        consumed := if keyClass (BitVec.ofNat 16 w) = clsByte then s.consumed + 1 else s.consumed }

/-- R75: at one clock edge, RESET, else CANCEL in a decode state, else ACK where an outcome is held and `out_ready` is 1, else the
offered byte, else nothing. -/
def Obligations.EdgeTakesTheFirstEventInPriority : Prop :=
  ∀ (s u : State) (p : Pins) (rest : List Stimulus),
    s.agenda = .edge p :: rest → u = { s with agenda := rest, payRaddr := p.payRaddr } →
    (p.rst = true → step s = exec (.reset u.st) u) ∧
    (p.rst = false → p.cancel = true → u.st ≤ 0x7#4 → step s = exec (.cancel u.st) u) ∧
    (p.rst = false → u.st = 0x8#4 → p.outReady = true → step s = exec (.ack u.st) u) ∧
    (∀ b bs, p.rst = false → p.cancel = false → u.st ≤ 0x7#4 → p.inValid = true → u.stream = b :: bs →
      ∃ i, decode u.cfg (key clsByte u.st b) = .ok i ∧
        step s = exec i { u with stream := bs, consumed := u.consumed + 1 }) ∧
    (p.rst = false → 0x8#4 ≤ u.st → (u.st = 0x8#4 → p.outReady = false) → step s = .next u) ∧
    (p.rst = false → p.cancel = false → u.st ≤ 0x7#4 → (p.inValid = false ∨ u.stream = []) → step s = .next u) ∧
    (p.rst = true ∨ p.cancel = true ∨ u.st = 0x8#4 → inReady p.rst p.cancel u = false)

/-- R146: at an edge with no event the state keeps its registers and its stream; with no move pending the machine waits, and that this
answers the same state as a next state is the model's choice (log entries 4 and 12: R146 calls waiting no step at all). -/
def Obligations.NoEventLeavesTheState : Prop :=
  (∀ s : State, s.agenda = [] → step s = .next s) ∧
  (∀ (s : State) (p : Pins) (rest : List Stimulus), s.agenda = .edge p :: rest →
    p.rst = false → ¬ (p.cancel = true ∧ s.st ≤ 0x7#4) → ¬ (s.st = 0x8#4 ∧ p.outReady = true) →
    ¬ (p.inValid = true ∧ s.stream ≠ [] ∧ s.st ≤ 0x7#4 ∧ p.cancel = false) →
    step s = .next { s with agenda := rest, payRaddr := p.payRaddr })

/-- R44: a BYTE step takes exactly the front byte, in a decode state only; a byte offered elsewhere stays at the front; no other
event touches the stream. -/
def Obligations.StreamIsTakenByByteStepsOnly : Prop :=
  ∀ (s u t : State) (m : Stimulus) (rest : List Stimulus),
    s.agenda = m :: rest → u = present m { s with agenda := rest } → step s = .next t →
    (request m u = some clsByte → s.st ≤ 0x7#4 → (∃ b, u.stream = b :: t.stream) ∧ t.consumed = s.consumed + 1) ∧
    (request m u = some clsByte → ¬ s.st ≤ 0x7#4 → t = u ∧ t.stream = u.stream) ∧
    (request m u ≠ some clsByte → t.stream = u.stream) ∧
    (request m u ≠ some clsByte → request m u ≠ some clsReset → t.consumed = s.consumed)

/-- R76: every transition of `st`, its operation, and the outcome kind of each entry into DONE. In PAYLOAD the index is below the length, as the
rule of PAY_CAP has it. -/
def Obligations.FsmTransitionsFollowTheTable : Prop :=
  (∀ (s : State) (b : Byte), s.st ≤ 0x7#4 →
    (s.st = stPayload → s.payIdx < s.lenR ∧ s.lenR ≤ s.cfg.payloadCap) →
    ∃ i t, decode s.cfg (key clsByte s.st b) = .ok i ∧ exec i s = .next t ∧
      (s.st = stSync → if b = 0xBB#8 then i = .hdrMatch ∧ t.st = stAddr else i = .hdrSkip b ∧ t.st = stSync) ∧
      (s.st = stAddr →
        if b = 0x7E#8 then i = .addrTrl ∧ t.st = stDone ∧ t.outKind = 1#3 else i = .addrCap b ∧ t.st = stCmd) ∧
      (s.st = stCmd →
        if b = 0x7E#8 then i = .cmdTrl ∧ t.st = stDone ∧ t.outKind = 1#3 else i = .cmdCap b ∧ t.st = stLenh) ∧
      (s.st = stLenh →
        if b = 0x7E#8 then i = .lenhTrl ∧ t.st = stDone ∧ t.outKind = 1#3 else i = .lenhCap b ∧ t.st = stLenl) ∧
      (s.st = stLenl →
        if b = 0x7E#8 ∧ s.cfg.checkLenLo = true then i = .lenlTrl ∧ t.st = stDone ∧ t.outKind = 1#3
        else if s.lenR.toNat / 256 * 256 + b.toNat > s.cfg.payloadCap.toNat then
          i = .lenlCap b ∧ t.st = stDone ∧ t.outKind = 5#3
        else if s.lenR.toNat / 256 * 256 + b.toNat = 0 then i = .lenlCap b ∧ t.st = stCsum
        else i = .lenlCap b ∧ t.st = stPayload) ∧
      (s.st = stPayload →
        if b = 0x7E#8 then i = .payTrl ∧ t.st = stDone ∧ t.outKind = 1#3
        else if s.payIdx.toNat + 1 = s.lenR.toNat then i = .payCap b ∧ t.st = stCsum
        else i = .payCap b ∧ t.st = stPayload) ∧
      (s.st = stCsum → i = .csCap b ∧ t.st = stTrail) ∧
      (s.st = stTrail →
        if b = 0x7E#8 then i = .trlMatch ∧ t.st = stDone ∧ t.outKind = (validate s).code
        else i = .trlSkip b ∧ t.st = stTrail)) ∧
  (∀ (s : State) (q : BitVec 4), ∃ t, exec (.cancel q) s = .next t ∧
    (s.st ≤ 0x7#4 → t.st = stDone ∧ t.outKind = 6#3) ∧ (s.st = stDone → t = s)) ∧
  (∀ (s : State) (q : BitVec 4), ∃ t, exec (.ack q) s = .next t ∧
    (s.st = stDone → t.st = stSync) ∧ (s.st ≤ 0x7#4 → t = s)) ∧
  (∀ (s : State) (q : BitVec 4), ∃ t, exec (.reset q) s = .next t ∧ t.st = stSync) ∧
  (∀ (cfg : Params) (b : Byte), decode cfg (key clsByte stDone b) = .error .noStepInDone)

/-! ## Header synchronisation -/

/-- R80: HDR_MATCH enters ADDR and changes nothing else; the header is not in the sum. -/
def Obligations.HeaderByteEntersAddress : Prop :=
  ∀ s : State,
    decode s.cfg 0x00BB#16 = .ok .hdrMatch ∧
    exec .hdrMatch s = .next { s with st := 0x1#4 } ∧
    (ReachInv s → s.st = stSync → s.csAcc = 0x00#8)

/-- R81: HDR_SKIP discards any other byte, 0x7E too, and counts it, held at 0xFFFFFFFF; nothing else changes. -/
def Obligations.PreHeaderByteIsCounted : Prop :=
  ∀ (b : Byte) (s : State), b ≠ 0xBB#8 →
    decode s.cfg (key 0x0#4 0x0#4 b) = .ok (.hdrSkip b) ∧
    exec (.hdrSkip b) s =
      .next { s with syncSkipped := BitVec.ofNat 32 (min (s.syncSkipped.toNat + 1) 0xFFFFFFFF) }

/-- R82: a run of bytes with no 0xBB, offered in SYNC, leaves the state as it was but for the stream, the count of bytes and the count
of skipped bytes. -/
def Obligations.LeadingNoiseOnlyCounts : Prop :=
  ∀ (n u : List Byte) (s : State) (rest : List Stimulus), s.st = stSync → 0xBB#8 ∉ n → s.stream = n ++ u →
    s.agenda = List.replicate n.length (.event clsByte s.payRaddr) ++ rest →
    Host.Core.run Sys2Proof.core n.length s =
      Host.Outcome.next { s with
        stream := u
        agenda := rest
        consumed := s.consumed + n.length
        syncSkipped := BitVec.ofNat 32 (min (s.syncSkipped.toNat + n.length) 0xFFFFFFFF) }

/-- R7, R35, R82, R112: the payload bytes left from earlier, the skipped-byte count, the ghost counter and the consumer's last sample
never reach any other part of a state. Two states whose skipped-byte counts agree keep them agreeing, two whose buffers agree below
`pay_idx` keep them agreeing there, and with both the outcome presented, an OK frame's payload in it, is the same. -/
def Obligations.StaleBytesNeverReachAnOutcome : Prop :=
  ∀ s u : State,
    u = { s with payBuf := u.payBuf, syncSkipped := u.syncSkipped, consumed := u.consumed, sampled := u.sampled } →
    (∀ t, step s = .next t →
      ∃ v, step u = .next v ∧
        v = { t with payBuf := v.payBuf, syncSkipped := v.syncSkipped, consumed := v.consumed, sampled := v.sampled } ∧
        (u.syncSkipped = s.syncSkipped → v.syncSkipped = t.syncSkipped) ∧
        ((∀ a, a < s.payIdx → memRead a u = memRead a s) → ∀ a, a < t.payIdx → memRead a v = memRead a t) ∧
        (ReachInv s → u.syncSkipped = s.syncSkipped → (∀ a, a < s.payIdx → memRead a u = memRead a s) →
          presented v = presented t)) ∧
    (∀ r, step s = .fault r → step u = .fault r) ∧
    (∀ r, step s = .refused r → step u = .refused r)

/-! ## Field capture -/

/-- R90, R92, R94, R96, R110: a trailer where none may be ends the attempt as UNEXPECTED_TRAILER at its stage; every register but the
outcome's keeps its value: in a reachable state those not captured yet are still 0x00. LENL_TRL exists only with CHECK_LEN_LO. -/
def Obligations.TrailerCollisionEndsTheAttempt : Prop :=
  ∀ s : State,
    decode s.cfg 0x017E#16 = .ok .addrTrl ∧
    decode s.cfg 0x027E#16 = .ok .cmdTrl ∧
    decode s.cfg 0x037E#16 = .ok .lenhTrl ∧
    (decode s.cfg 0x047E#16 = .ok .lenlTrl ↔ s.cfg.checkLenLo = true) ∧
    decode s.cfg 0x057E#16 = .ok .payTrl ∧
    (∀ i ∈ [Instr.addrTrl, .cmdTrl, .lenhTrl, .lenlTrl, .payTrl],
      exec i s = .next { s with outKind := 1#3, outStage := s.st, st := 0x8#4 }) ∧
    (ReachInv s →
      (s.st = stAddr → s.addrR = 0x00#8 ∧ s.csAcc = 0x00#8) ∧
      (s.st = stCmd → s.addrR ≠ 0x7E#8 ∧ s.csAcc = s.addrR) ∧
      (s.st = stPayload → s.payIdx < s.lenR) ∧
      s.lenR.toNat / 256 ≠ 0x7E)

/-- R91: ADDR_CAP. From a reachable state the sum then equals the byte. -/
def Obligations.AddressByteIsCaptured : Prop :=
  ∀ (b : Byte) (s : State), b ≠ 0x7E#8 →
    decode s.cfg (key 0x0#4 0x1#4 b) = .ok (.addrCap b) ∧
    exec (.addrCap b) s = .next { s with addrR := b, csAcc := BitVec.ofNat 8 (s.csAcc.toNat + b.toNat), st := 0x2#4 } ∧
    (ReachInv s → s.st = stAddr → s.csAcc = 0x00#8)

/-- R93: CMD_CAP; the sum wraps modulo 256. -/
def Obligations.CommandByteIsCaptured : Prop :=
  ∀ (b : Byte) (s : State), b ≠ 0x7E#8 →
    decode s.cfg (key 0x0#4 0x2#4 b) = .ok (.cmdCap b) ∧
    exec (.cmdCap b) s = .next { s with cmdR := b, csAcc := BitVec.ofNat 8 (s.csAcc.toNat + b.toNat), st := 0x3#4 }

/-- R95: LENH_CAP writes the high byte of the length and leaves the low one, which is still 0x00 in a reachable state. -/
def Obligations.LengthHighByteIsCaptured : Prop :=
  ∀ (b : Byte) (s : State), b ≠ 0x7E#8 →
    decode s.cfg (key 0x0#4 0x3#4 b) = .ok (.lenhCap b) ∧
    exec (.lenhCap b) s =
      .next { s with
        lenR := BitVec.ofNat 16 (b.toNat * 256 + s.lenR.toNat % 256)
        csAcc := BitVec.ofNat 8 (s.csAcc.toNat + b.toNat)
        st := 0x4#4 } ∧
    (ReachInv s → s.st = stLenh → s.lenR.toNat % 256 = 0)

/-- R97: LENL_CAP writes the low byte and routes on the length: over the cap, to the checksum, or to the payload. With the default
capacity no length is over it. -/
def Obligations.LengthLowByteRoutesTheAttempt : Prop :=
  ∀ (b : Byte) (s : State) (l : BitVec 16) (a : Byte), ¬ (s.cfg.checkLenLo = true ∧ b = 0x7E#8) →
    l = BitVec.ofNat 16 (s.lenR.toNat / 256 * 256 + b.toNat) → a = BitVec.ofNat 8 (s.csAcc.toNat + b.toNat) →
    decode s.cfg (key 0x0#4 0x4#4 b) = .ok (.lenlCap b) ∧
    (l > s.cfg.payloadCap →
      exec (.lenlCap b) s = .next { s with lenR := l, csAcc := a, outKind := 5#3, outStage := s.st, st := 0x8#4 }) ∧
    (l ≤ s.cfg.payloadCap → l = 0x0000#16 →
      exec (.lenlCap b) s = .next { s with lenR := l, csAcc := a, st := 0x6#4 }) ∧
    (l ≤ s.cfg.payloadCap → l ≠ 0x0000#16 →
      exec (.lenlCap b) s = .next { s with lenR := l, csAcc := a, st := 0x5#4 }) ∧
    (s.cfg.payloadCap = 65535#16 → l ≤ s.cfg.payloadCap)

/-- R61: the two length bytes give `high * 256 + low`, and a length of 0 goes straight to the checksum byte. -/
def Obligations.LengthIsBigEndian : Prop :=
  ∀ (h l : Byte) (s : State), ∃ t u,
    exec (.lenhCap h) s = .next t ∧ exec (.lenlCap l) t = .next u ∧ u.lenR.toNat = h.toNat * 256 + l.toNat ∧
      (h.toNat * 256 + l.toNat = 0 → u.st = stCsum)

/-- R98: after an LENL_CAP that raises no outcome, the sum is that of the four fields, and no checked field is the trailer. -/
def Obligations.FieldsAfterTheLengthAreSummed : Prop :=
  ∀ (b : Byte) (s t : State), ReachInv s → s.st = stLenl → decode s.cfg (key clsByte s.st b) = .ok (.lenlCap b) →
    exec (.lenlCap b) s = .next t → t.st ≠ stDone →
    t.csAcc.toNat = (t.addrR.toNat + t.cmdR.toNat + t.lenR.toNat / 256 + t.lenR.toNat % 256) % 256 ∧
    t.lenR.toNat % 256 = b.toNat ∧
    t.addrR ≠ 0x7E#8 ∧ t.cmdR ≠ 0x7E#8 ∧ t.lenR.toNat / 256 ≠ 0x7E ∧
    (t.cfg.checkLenLo = true → t.lenR.toNat % 256 ≠ 0x7E)

/-- R71, R94, 60_exceptions R162: what a held UNEXPECTED_TRAILER shows at each of the five stages it can have: nothing of the fields
after its stage, no received checksum, `normal` 0, and the sum of what was captured, the collected payload bytes included; no length
of 0x7E00 to 0x7EFF is ever held. -/
def Obligations.CollisionShowsTheCapturedFields : Prop :=
  ∀ s : State, ReachInv s → s.st = stDone → s.outKind = 1#3 →
    (s.outStage = stAddr ∨ s.outStage = stCmd ∨ s.outStage = stLenh ∨ (s.outStage = stLenl ∧ s.cfg.checkLenLo = true) ∨
      s.outStage = stPayload) ∧
    (s.outStage = stAddr → s.addrR = 0x00#8 ∧ s.cmdR = 0x00#8 ∧ s.lenR = 0x0000#16 ∧ s.csAcc = 0x00#8) ∧
    (s.outStage = stCmd → s.cmdR = 0x00#8 ∧ s.lenR = 0x0000#16 ∧ s.csAcc = s.addrR) ∧
    (s.outStage = stLenh → s.lenR = 0x0000#16 ∧ s.csAcc = s.addrR + s.cmdR) ∧
    (s.outStage = stLenl → s.lenR.toNat % 256 = 0 ∧
      s.csAcc.toNat = (s.addrR.toNat + s.cmdR.toNat + s.lenR.toNat / 256) % 256) ∧
    (s.outStage = stPayload → s.payIdx < s.lenR ∧
      s.csAcc.toNat =
        (s.addrR.toNat + s.cmdR.toNat + s.lenR.toNat / 256 + s.lenR.toNat % 256 +
          ((List.range s.payIdx.toNat).map (fun i => (memRead (BitVec.ofNat 16 i) s).toNat)).sum) % 256) ∧
    s.csRx = 0x00#8 ∧ s.normal = false ∧ s.lenR.toNat / 256 ≠ 0x7E

/-! ## Payload -/

/-- R111: PAY_CAP stores the byte at the index, sums it and counts it, and goes to CSUM at the declared length; every other byte of the
buffer reads as before, and below the length the index does not wrap. -/
def Obligations.PayloadByteIsCollected : Prop :=
  ∀ (b : Byte) (s : State), b ≠ 0x7E#8 → s.payIdx < s.lenR → s.lenR ≤ s.cfg.payloadCap →
    decode s.cfg (key 0x0#4 0x5#4 b) = .ok (.payCap b) ∧
    ∃ t, exec (.payCap b) s = .next t ∧
      t = { s with
        payBuf := t.payBuf
        csAcc := BitVec.ofNat 8 (s.csAcc.toNat + b.toNat)
        payIdx := t.payIdx
        st := if s.payIdx.toNat + 1 = s.lenR.toNat then 0x6#4 else s.st } ∧
      t.payIdx.toNat = s.payIdx.toNat + 1 ∧
      memRead s.payIdx t = b ∧
      ∀ a, a ≠ s.payIdx → memRead a t = memRead a s

/-- R28: only PAY_CAP writes the payload buffer, and only at `pay_idx`; what it writes is read back; at reset every index holds the free
power-up draw (log entry 1: it has no value anyone chose). -/
def Obligations.PayloadBufferIsWrittenByPayCapOnly : Prop :=
  (∀ (i : Instr) (s t : State) (a : BitVec 16), exec i s = .next t → ((∃ b, i = .payCap b) → a ≠ s.payIdx) →
    memRead a t = memRead a s) ∧
  (∀ (b : Byte) (s : State), s.payIdx < s.cfg.payloadCap →
    ∃ t, exec (.payCap b) s = .next t ∧ memRead s.payIdx t = b) ∧
  (∀ a : BitVec 16, a < State.reset.cfg.payloadCap → memRead a State.reset = Config.payBufDraw a.toNat)

/-- R27, R112: the FSV leaves PAYLOAD only with the whole payload, by a collision, or by CANCEL or RESET, and the index never passes the
length or the capacity. -/
def Obligations.PayloadLengthIsExact : Prop :=
  ∀ s t : State, ReachInv s → step s = .next t →
    (s.st = stPayload → t.st ≠ stPayload →
      (t.st = stCsum ∧ t.payIdx = t.lenR) ∨ (t.st = stDone ∧ (t.outKind = 1#3 ∨ t.outKind = 6#3)) ∨ t.st = stSync) ∧
    t.payIdx ≤ t.lenR ∧ t.payIdx ≤ t.cfg.payloadCap

/-! ## Checksum, trailer, validation -/

/-- R120: the five capture operations add the byte to the sum and no other operation of an attempt changes it; when CSUM is reached it is
the low byte of the sum of the fields and the payload. -/
def Obligations.ChecksumAccumulatorIsTheSum : Prop :=
  (∀ (i : Instr) (s t : State), exec i s = .next t →
    match i with
    | .addrCap b => t.csAcc = s.csAcc + b
    | .cmdCap b => t.csAcc = s.csAcc + b
    | .lenhCap b => t.csAcc = s.csAcc + b
    | .lenlCap b => t.csAcc = s.csAcc + b
    | .payCap b => t.csAcc = s.csAcc + b
    | .ack _ => t.csAcc = (if s.st = stDone then 0x00#8 else s.csAcc)
    | .reset _ => t.csAcc = 0x00#8
    | _ => t.csAcc = s.csAcc) ∧
  (∀ s : State, ReachInv s → s.st = stCsum →
    s.csAcc.toNat =
      (s.addrR.toNat + s.cmdR.toNat + s.lenR.toNat / 256 + s.lenR.toNat % 256 +
        ((payloadBytes s).map BitVec.toNat).sum) % 256)

/-- R121: CS_CAP takes any byte, 0x7E too, as the checksum, sets `normal` and enters TRAIL. -/
def Obligations.ChecksumByteIsCaptured : Prop :=
  ∀ (b : Byte) (s : State),
    decode s.cfg (key 0x0#4 0x6#4 b) = .ok (.csCap b) ∧
    exec (.csCap b) s = .next { s with csRx := b, normal := true, st := 0x7#4 }

/-- R122, R124: TRL_MATCH ends the attempt with the kind Validate returns: structure, then checksum, then trailing garbage, then OK. -/
def Obligations.TrailerValidatesTheFrame : Prop :=
  ∀ s : State,
    decode s.cfg 0x077E#16 = .ok .trlMatch ∧
    exec .trlMatch s =
      .next { s with
        outKind :=
          if s.addrR ≠ 0x02#8 ∨ s.cmdR ≠ 0x22#8 then 2#3
          else if s.csAcc ≠ s.csRx then 3#3
          else if s.normal = false then 4#3
          else 0#3
        outStage := s.st
        st := 0x8#4 }

/-- R126: the kind by checksum and garbage where address and command are right, STRUCTURAL_MISMATCH where they are not, and no single
flipped bit of the received checksum passes. -/
def Obligations.FlippedChecksumBitNeverPasses : Prop :=
  (∀ s : State, s.addrR = 0x02#8 → s.cmdR = 0x22#8 →
    (s.csAcc = s.csRx → s.normal = true → validate s = .ok) ∧
    (s.csAcc = s.csRx → s.normal = false → validate s = .trailingGarbageSkipped) ∧
    (s.csAcc ≠ s.csRx → validate s = .checksumMismatch)) ∧
  (∀ s : State, (s.addrR ≠ 0x02#8 ∨ s.cmdR ≠ 0x22#8) → validate s = .structuralMismatch) ∧
  (∀ (s : State) (n : Nat), n < 8 → s.addrR = 0x02#8 → s.cmdR = 0x22#8 → s.csRx = s.csAcc ^^^ (1#8 <<< n) →
    ∃ t, exec .trlMatch s = .next t ∧ t.outKind = 3#3)

/-- R123: TRL_SKIP discards any byte but the trailer, 0xBB too, and clears `normal`. -/
def Obligations.TrailingGarbageClearsNormal : Prop :=
  ∀ (b : Byte) (s : State), b ≠ 0x7E#8 →
    decode s.cfg (key 0x0#4 0x7#4 b) = .ok (.trlSkip b) ∧
    exec (.trlSkip b) s = .next { s with normal := false }

/-- R125: a held OK outcome is a whole valid frame: the fixed address and command, exactly `out_len` payload bytes, none the trailer, and
the correct checksum; and the record stays until an ACK or a RESET. -/
def Obligations.OkOutcomeIsAValidFrame : Prop :=
  ∀ s : State, ReachInv s → s.st = stDone → s.outKind = 0#3 →
    ∃ f, frameOf s = some f ∧
      f.address = 0x02#8 ∧ f.address = s.addrR ∧ f.command = 0x22#8 ∧ f.command = s.cmdR ∧
      f.length = s.lenR ∧ f.length ≤ s.cfg.payloadCap ∧
      f.payload = (List.range s.lenR.toNat).map (fun i => memRead (BitVec.ofNat 16 i) s) ∧
      0x7E#8 ∉ f.payload ∧
      f.checksum = s.csRx ∧ f.checksum = s.csAcc ∧
      f.checksum = wireChecksum 0x02#8 0x22#8 f.payload ∧ s.normal = true ∧
      ∀ (m : Stimulus) (rest : List Stimulus) (u t : State), s.agenda = m :: rest →
        u = present m { s with agenda := rest } → request m u ≠ some clsAck → request m u ≠ some clsReset →
        step s = .next t → frameOf t = some f

/-- R60 to R63, R73, R124: a frame on the wire with any address and command but the trailer, any legal payload, any checksum and any
garbage, offered in SYNC of a reachable state, is decoded in `7 + len + g` byte steps to the outcome its address, command, checksum
and garbage give, with its fields and its payload read back exactly, and nothing after it consumed. -/
def Obligations.FrameOnTheWireGivesItsOutcome : Prop :=
  ∀ (a c x : Byte) (p g v : List Byte) (s : State) (rest : List Stimulus),
    ReachInv s → s.st = stSync → a ≠ 0x7E#8 → c ≠ 0x7E#8 → 0x7E#8 ∉ p → 0x7E#8 ∉ g →
    p.length ≤ s.cfg.payloadCap.toNat → p.length / 256 ≠ 0x7E →
    (s.cfg.checkLenLo = true → p.length % 256 ≠ 0x7E) →
    s.stream = frameWith a c p x g ++ v →
    s.agenda = List.replicate (7 + p.length + g.length) (.event clsByte s.payRaddr) ++ rest →
    ∃ t : State, Host.Core.run Sys2Proof.core (7 + p.length + g.length) s = Host.Outcome.next t ∧
      t.st = stDone ∧ t.outStage = stTrail ∧
      t.outKind =
        (if a ≠ 0x02#8 ∨ c ≠ 0x22#8 then 2#3
         else if x ≠ wireChecksum a c p then 3#3
         else if g ≠ [] then 4#3
         else 0#3) ∧
      t.addrR = a ∧ t.cmdR = c ∧ t.lenR.toNat = p.length ∧ payloadBytes t = p ∧ t.csRx = x ∧
      t.csAcc = wireChecksum a c p ∧ (t.normal = true ↔ g = []) ∧ t.syncSkipped = s.syncSkipped ∧
      t.consumed = s.consumed + (7 + p.length + g.length) ∧ t.stream = v ∧ t.agenda = rest

/-! ## Control and reads -/

/-- R35, R140: ACK in DONE clears every per-attempt register and enters SYNC, the payload buffer untouched; elsewhere it has no effect. -/
def Obligations.AckBeginsTheNextAttempt : Prop :=
  ∀ (q : BitVec 4) (b : Byte) (s : State),
    decode s.cfg (key 0x1#4 q b) = .ok (.ack q) ∧
    (s.st = 0x8#4 →
      exec (.ack q) s =
        .next { s with
          addrR := 0x00#8, cmdR := 0x00#8, lenR := 0x0000#16, csAcc := 0x00#8, csRx := 0x00#8, payIdx := 0x0000#16,
          normal := false, syncSkipped := 0x00000000#32, outKind := 0#3, outStage := 0x0#4, st := 0x0#4 }) ∧
    (s.st ≠ 0x8#4 → exec (.ack q) s = .next s)

/-- R141: CANCEL in a decode state holds CANCELLED at that state, every captured register kept; in DONE it has no effect. -/
def Obligations.CancelEndsTheAttempt : Prop :=
  ∀ (q : BitVec 4) (b : Byte) (s : State),
    decode s.cfg (key 0x2#4 q b) = .ok (.cancel q) ∧
    (s.st ≤ 0x7#4 → exec (.cancel q) s = .next { s with outKind := 6#3, outStage := s.st, st := 0x8#4 }) ∧
    (s.st = 0x8#4 → exec (.cancel q) s = .next s)

/-- R142, R180: RESET in any state gives every register its reset value and writes no byte of the payload buffer; no outcome is held
then, and the FSV is ready for a byte. -/
def Obligations.ResetClearsEveryRegister : Prop :=
  ∀ (q : BitVec 4) (b : Byte) (s : State),
    decode s.cfg (key 0x3#4 q b) = .ok (.reset q) ∧
    ∃ t, exec (.reset q) s = .next t ∧
      t = { s with
        st := 0x0#4, addrR := 0x00#8, cmdR := 0x00#8, lenR := 0x0000#16, csAcc := 0x00#8, csRx := 0x00#8,
        payIdx := 0x0000#16, normal := false, syncSkipped := 0x00000000#32, outKind := 0#3, outStage := 0x0#4,
        consumed := t.consumed } ∧
      outValid t = false ∧ inReady false false t = true ∧ dbgState t = 0x0#4

/-- R181: a reset at an edge wins, consumes no byte and leaves no outcome; held for one more edge it has no further effect. -/
def Obligations.ResetHeldHasNoFurtherEffect : Prop :=
  ∀ (s : State) (p p' : Pins) (rest : List Stimulus), s.agenda = .edge p :: .edge p' :: rest →
    p.rst = true → p'.rst = true →
    inReady p.rst p.cancel s = false ∧
    ∃ t, step s = .next t ∧ t.st = stSync ∧ outValid t = false ∧ t.outKind = 0#3 ∧ t.stream = s.stream ∧
      t.payBuf = s.payBuf ∧ step t = .next { t with agenda := rest, payRaddr := p'.payRaddr }

/-- R143: OUT_READ gives the consumer the outcome ports, in every state, and changes no register. -/
def Obligations.OutReadGivesTheOutcomePorts : Prop :=
  ∀ (q : BitVec 4) (b : Byte) (s : State),
    decode s.cfg (key 0x4#4 q b) = .ok (.outRead q) ∧
    exec (.outRead q) s =
      .next { s with
        sampled := some (.outcome
          { outValid := decide (s.st = 0x8#4), outKind := s.outKind, outStage := s.outStage, outAddr := s.addrR,
            outCmd := s.cmdR, outLen := s.lenR, outCs := s.csRx, outCsCalc := s.csAcc, outNormal := s.normal,
            outSyncSkipped := s.syncSkipped }) }

/-- R46, R144: PAY_READ gives the consumer the byte of the index on `pay_raddr`, 0x00 at or past the capacity, and changes no register. -/
def Obligations.PayReadGivesTheIndexedByte : Prop :=
  ∀ (q : BitVec 4) (b : Byte) (s : State),
    decode s.cfg (key 0x5#4 q b) = .ok (.payRead q) ∧
    exec (.payRead q) s =
      .next { s with
        sampled := some (.payload
          (if s.payRaddr < s.cfg.payloadCap then bufferByte s.payBuf s.payRaddr.toNat else 0x00#8)) }

/-- R145: DBG_READ gives the consumer `st` alone, and changes no register. -/
def Obligations.DbgReadGivesTheState : Prop :=
  ∀ (q : BitVec 4) (b : Byte) (s : State),
    decode s.cfg (key 0x6#4 q b) = .ok (.dbgRead q) ∧
    exec (.dbgRead q) s = .next { s with sampled := some (.debug s.st) }

/-- R83: after any outcome and its ACK the next attempt begins in SYNC at the first byte not consumed; where the attempt ended on a
collision that is the byte after the colliding one. -/
def Obligations.ResynchronisesAfterAnOutcome : Prop :=
  (∀ (s : State) (rest : List Stimulus) (r : BitVec 16), s.st = stDone → s.agenda = .event clsAck r :: rest →
    ∃ t, step s = .next t ∧ t.st = stSync ∧ t.stream = s.stream ∧ t.agenda = rest ∧ t.consumed = s.consumed) ∧
  (∀ (s : State) (u : List Byte) (rest : List Stimulus) (r r' : BitVec 16),
    (s.st = stAddr ∨ s.st = stCmd ∨ s.st = stLenh ∨ (s.st = stLenl ∧ s.cfg.checkLenLo = true) ∨ s.st = stPayload) →
    s.stream = 0x7E#8 :: u → s.agenda = .event clsByte r :: .event clsAck r' :: rest →
    ∃ t : State, Host.Core.run Sys2Proof.core 2 s = Host.Outcome.next t ∧
      t.st = stSync ∧ t.stream = u ∧ t.agenda = rest ∧ t.consumed = s.consumed + 1 ∧ t.payBuf = s.payBuf)

/-- R188: with `cancel` and a byte at one edge, the cancel is taken and the byte stays at the front; after the ACK it is the first byte of
the next attempt. -/
def Obligations.CancelEdgeKeepsTheOfferedByte : Prop :=
  ∀ (s : State) (p : Pins) (r : BitVec 16) (rest : List Stimulus), s.agenda = .edge p :: .event clsAck r :: rest →
    p.rst = false → p.cancel = true → p.inValid = true → s.st ≤ 0x7#4 →
    ∃ t u, step s = .next t ∧ t.st = stDone ∧ t.outKind = 6#3 ∧ t.outStage = s.st ∧ t.stream = s.stream ∧
      t.consumed = s.consumed ∧ step t = .next u ∧ u.st = stSync ∧ u.stream = s.stream ∧ u.consumed = s.consumed

/-! ## Outcomes -/

/-- R163: an operation enters DONE only as `finish` does: a kind, the stage the deciding step ran in, and no other register but the
length and the sum of the LENL_CAP that is over the cap. -/
def Obligations.FinishIsTheOnlyWayIntoDone : Prop :=
  ∀ (i : Instr) (s t : State), exec i s = .next t → s.st ≠ stDone → t.st = stDone →
    ∃ k : OutcomeKind, t.outKind = k.code ∧ t.outStage = s.st ∧ outValid t = true ∧
      (∀ rst cancel, inReady rst cancel t = false) ∧
      t = { s with outKind := k.code, outStage := s.st, st := stDone, lenR := t.lenR, csAcc := t.csAcc } ∧
      ((∀ b, i ≠ .lenlCap b) → t.lenR = s.lenR ∧ t.csAcc = s.csAcc)

/-- R164: ACK is the return; nothing is restored; RESET discards a held outcome; while an outcome is held, every move but an ACK or a RESET leaves every outcome port and
every payload byte as it is, so outcomes do not nest. -/
def Obligations.HeldOutcomeStaysUntilAckOrReset : Prop :=
  (∀ (s : State) (q : BitVec 4), s.st = stDone →
    ∃ t, exec (.ack q) s = .next t ∧ t.st = stSync ∧ t.payBuf = s.payBuf ∧ t.stream = s.stream ∧
      t.addrR = 0x00#8 ∧ t.cmdR = 0x00#8 ∧ t.lenR = 0x0000#16 ∧ t.csAcc = 0x00#8 ∧ t.csRx = 0x00#8 ∧
      t.payIdx = 0x0000#16 ∧ t.normal = false ∧ t.syncSkipped = 0x00000000#32 ∧ t.outKind = 0#3 ∧ t.outStage = 0x0#4) ∧
  (∀ (s : State) (q : BitVec 4), ∃ t, exec (.reset q) s = .next t ∧ t.st = stSync ∧ outValid t = false) ∧
  (∀ (s u : State) (m : Stimulus) (rest : List Stimulus), s.st = stDone → s.agenda = m :: rest →
    u = present m { s with agenda := rest } → request m u ≠ some clsAck → request m u ≠ some clsReset →
    (∀ c, request m u = some c → c ≤ 0x6#4) →
    ∃ t, step s = .next t ∧ t.st = stDone ∧ outPorts t = outPorts s ∧ (∀ a, memRead a t = memRead a s) ∧
      (∀ rst cancel, inReady rst cancel t = false))

/-- R167: after an outcome and its ACK the registers are those of a reset; only the payload buffer, which neither writes, and the stream
position, which the ghost counter keeps, carry over. -/
def Obligations.AckLeavesTheResetRegisters : Prop :=
  ∀ (s : State) (q : BitVec 4), s.st = stDone →
    ∃ t u, exec (.ack q) s = .next t ∧ exec (.reset q) s = .next u ∧ u = { t with consumed := u.consumed } ∧
      t = { State.reset with
        payBuf := s.payBuf, stream := s.stream, consumed := s.consumed, cfg := s.cfg, agenda := s.agenda,
        payRaddr := s.payRaddr, sampled := s.sampled }

/-- R20 to R32, R36: the operations that write each register, all twelve of R20, and no other does. -/
def Obligations.EachRegisterHasItsWriters : Prop :=
  ∀ (i : Instr) (s t : State), exec i s = .next t →
    (match i with
      | .hdrSkip _ => t.st = s.st | .trlSkip _ => t.st = s.st
      | .payCap _ => t.st = s.st ∨ (t.st = stCsum ∧ t.payIdx = t.lenR)
      | .ack _ => s.st = stDone ∨ t.st = s.st | .cancel _ => s.st ≤ stTrail ∨ t.st = s.st
      | .outRead _ => t.st = s.st | .payRead _ => t.st = s.st | .dbgRead _ => t.st = s.st
      | _ => True) ∧
    (match i with
      | .addrCap _ => True | .cmdCap _ => True | .lenhCap _ => True | .lenlCap _ => True | .payCap _ => True
      | .reset _ => True | .ack _ => s.st = stDone ∨ t.csAcc = s.csAcc
      | _ => t.csAcc = s.csAcc) ∧
    (match i with
      | .payCap _ => ∀ a, a ≠ s.payIdx → memRead a t = memRead a s
      | _ => t.payBuf = s.payBuf) ∧
    (match i with
      | .addrCap _ => True | .reset _ => True | .ack _ => s.st = stDone ∨ t.addrR = s.addrR
      | _ => t.addrR = s.addrR) ∧
    (match i with
      | .cmdCap _ => True | .reset _ => True | .ack _ => s.st = stDone ∨ t.cmdR = s.cmdR
      | _ => t.cmdR = s.cmdR) ∧
    (match i with
      | .lenhCap _ => t.lenR.toNat % 256 = s.lenR.toNat % 256 | .lenlCap _ => t.lenR.toNat / 256 = s.lenR.toNat / 256
      | .reset _ => True | .ack _ => s.st = stDone ∨ t.lenR = s.lenR
      | _ => t.lenR = s.lenR) ∧
    (match i with
      | .csCap _ => True | .reset _ => True | .ack _ => s.st = stDone ∨ t.csRx = s.csRx
      | _ => t.csRx = s.csRx) ∧
    (match i with
      | .payCap _ => True | .reset _ => True | .ack _ => s.st = stDone ∨ t.payIdx = s.payIdx
      | _ => t.payIdx = s.payIdx) ∧
    (match i with
      | .csCap _ => True | .trlSkip _ => True | .reset _ => True | .ack _ => s.st = stDone ∨ t.normal = s.normal
      | _ => t.normal = s.normal) ∧
    (match i with
      | .hdrSkip _ => True | .reset _ => True | .ack _ => s.st = stDone ∨ t.syncSkipped = s.syncSkipped
      | _ => t.syncSkipped = s.syncSkipped) ∧
    (match i with
      | .addrTrl => True | .cmdTrl => True | .lenhTrl => True | .lenlTrl => True | .payTrl => True | .trlMatch => True
      | .lenlCap _ => t.st = stDone ∨ (t.outKind = s.outKind ∧ t.outStage = s.outStage)
      | .cancel _ => s.st ≤ stTrail ∨ (t.outKind = s.outKind ∧ t.outStage = s.outStage)
      | .reset _ => True
      | .ack _ => s.st = stDone ∨ (t.outKind = s.outKind ∧ t.outStage = s.outStage)
      | _ => t.outKind = s.outKind ∧ t.outStage = s.outStage) ∧
    (match i with
      | .outRead _ => True | .payRead _ => True | .dbgRead _ => True
      | _ => t.sampled = s.sampled) ∧
    (match i with
      | .reset _ => True
      | _ => t.consumed = s.consumed) ∧
    t.cfg = s.cfg ∧ t.stream = s.stream ∧ t.agenda = s.agenda ∧ t.payRaddr = s.payRaddr

/-- R70: the codes of the seven kinds, all different, none 7; no operation writes 7, nor 5 with the capacity 65535. -/
def Obligations.OutcomeKindsHaveTheirCodes : Prop :=
  OutcomeKind.code .ok = 0#3 ∧ OutcomeKind.code .unexpectedTrailer = 1#3 ∧
  OutcomeKind.code .structuralMismatch = 2#3 ∧ OutcomeKind.code .checksumMismatch = 3#3 ∧
  OutcomeKind.code .trailingGarbageSkipped = 4#3 ∧ OutcomeKind.code .lengthOverCap = 5#3 ∧
  OutcomeKind.code .cancelled = 6#3 ∧
  (∀ j k : OutcomeKind, j.code = k.code → j = k) ∧ (∀ k : OutcomeKind, k.code ≠ 7#3) ∧
  (∀ (i : Instr) (s t : State), exec i s = .next t → s.outKind ≠ 7#3 → t.outKind ≠ 7#3) ∧
  (∀ (i : Instr) (s t : State), exec i s = .next t → s.cfg.payloadCap = 65535#16 → s.outKind ≠ 5#3 → t.outKind ≠ 5#3)

/-- R33: the derived status signals. -/
def Obligations.StatusSignalsAreFunctionsOfTheState : Prop :=
  ∀ (s : State) (rst cancel : Bool),
    (outValid s = true ↔ s.st = 0x8#4) ∧
    (inReady rst cancel s = true ↔ s.st.toNat ≤ 7 ∧ rst = false ∧ cancel = false) ∧
    dbgState s = s.st

/-! ## Invariants -/

/-- R20, R180: the state right after reset, register by register. -/
def Obligations.ResetStateHasTheResetValues : Prop :=
  State.reset.st = 0x0#4 ∧ State.reset.addrR = 0x00#8 ∧ State.reset.cmdR = 0x00#8 ∧ State.reset.lenR = 0x0000#16 ∧
  State.reset.csAcc = 0x00#8 ∧ State.reset.csRx = 0x00#8 ∧ State.reset.payIdx = 0x0000#16 ∧
  State.reset.normal = false ∧ State.reset.syncSkipped = 0x00000000#32 ∧ State.reset.outKind = 0#3 ∧
  State.reset.outStage = 0x0#4 ∧ outValid State.reset = false ∧ inReady false false State.reset = true ∧
  dbgState State.reset = 0x0#4

/-- R39, R180: the invariant holds right after reset, with any parameters and any canonical contents of the payload buffer within the
capacity. -/
def Obligations.ResetMeetsTheInvariant : Prop :=
  ∀ (cfg : Params) (m : Memory), Memory.wf m → (∀ e ∈ m, e.1 < cfg.payloadCap.toNat) →
    ReachInv { State.reset with cfg := cfg, payBuf := m }

/-- R39: every step keeps the invariant, from every state that meets it. -/
def Obligations.StepKeepsTheInvariant : Prop :=
  ∀ s t : State, ReachInv s → step s = .next t → ReachInv t

/-- R39: the clauses of the rule, from the invariant. -/
def Obligations.InvariantGivesTheReachableStateRule : Prop :=
  ∀ s : State, ReachInv s →
    s.st.toNat ≤ 8 ∧
    (s.st = stSync ∨ s.st = stAddr ∨ s.st = stCmd ∨ s.st = stLenh → s.payIdx = 0x0000#16) ∧
    (s.st = stSync → s.lenR = 0x0000#16) ∧
    (s.st = stPayload → s.payIdx < s.lenR ∧ s.lenR ≤ s.cfg.payloadCap) ∧
    (s.st = stCsum ∨ s.st = stTrail → s.payIdx = s.lenR) ∧
    (s.st ≤ stCsum → s.normal = false) ∧
    s.csAcc.toNat =
      (s.addrR.toNat + s.cmdR.toNat + s.lenR.toNat / 256 + s.lenR.toNat % 256 +
        ((List.range s.payIdx.toNat).map (fun i => (memRead (BitVec.ofNat 16 i) s).toNat)).sum) % 256

/-- R160: from a state of the invariant no step faults, and only a stimulus of a reserved class is refused. -/
def Obligations.ReachableStatesNeverFault : Prop :=
  ∀ s : State, ReachInv s →
    (∀ r, step s ≠ .fault r) ∧
    (∀ r, step s = .refused r → ∃ c, 0x7#4 ≤ c ∧ r = .reservedClass c)

/-- R111: PAY_CAP stops at an index the buffer does not have, and only there: at every index it has, PAY_CAP completes, and so it does
in PAYLOAD of every reachable state (the fault is the model's own stop, log entry 7). -/
def Obligations.PayCapStopsOnlyOutsideTheBuffer : Prop :=
  ∀ (b : Byte) (s : State),
    (s.cfg.payloadCap ≤ s.payIdx → exec (.payCap b) s = .fault (.payloadIndexOutOfRange s.payIdx)) ∧
    (s.payIdx < s.cfg.payloadCap → ∃ t, exec (.payCap b) s = .next t) ∧
    (ReachInv s → s.st = stPayload → ∃ t, exec (.payCap b) s = .next t)

/-- Every step keeps the payload buffer in its canonical form (the model's memory, log entry 1; R28). -/
def Obligations.StepKeepsTheBufferCanonical : Prop :=
  ∀ s t : State, Memory.wf s.payBuf → step s = .next t → Memory.wf t.payBuf

/-- R9, R182: the parameters are fixed: no step changes them. -/
def Obligations.ParametersNeverChange : Prop :=
  ∀ s t : State, step s = .next t → t.cfg = s.cfg

/-- R183: a state may be launched exactly where the invariant holds; a reserved `st` or a broken invariant is refused. -/
def Obligations.LaunchNeedsTheInvariant : Prop :=
  ∀ s : State,
    (launch s = .next s ↔ ReachInv s) ∧
    (¬ ReachInv s → ∃ r, launch s = .refused r) ∧
    (0x9#4 ≤ s.st → launch s = .refused (.reservedState s.st))
end

