-- ==== Sys2Proof/Laws/Decode.lean ====
section
/-! SUPPORT. The fields of a key, and what each error of the decoder says of them. -/

namespace Sys2Proof

@[simp] theorem keyClass_key (c q : BitVec 4) (b : Byte) : keyClass (key c q b) = c := by
  apply BitVec.eq_of_getLsbD_eq
  intro i hi
  simp only [keyClass, key, BitVec.getLsbD_extractLsb', BitVec.getLsbD_append, hi, decide_true, Bool.true_and]
  have h1 : ¬ 12 + i < 8 := by omega
  have h2 : ¬ 12 + i - 8 < 4 := by omega
  have h3 : 12 + i - 8 - 4 = i := by omega
  simp [h1, h2, h3]

@[simp] theorem keyState_key (c q : BitVec 4) (b : Byte) : keyState (key c q b) = q := by
  apply BitVec.eq_of_getLsbD_eq
  intro i hi
  simp only [keyState, key, BitVec.getLsbD_extractLsb', BitVec.getLsbD_append, hi, decide_true, Bool.true_and]
  have h1 : ¬ 8 + i < 8 := by omega
  have h2 : 8 + i - 8 < 4 := by omega
  have h3 : 8 + i - 8 = i := by omega
  simp [h1, h3, hi]

@[simp] theorem keyByte_key (c q : BitVec 4) (b : Byte) : keyByte (key c q b) = b := by
  apply BitVec.eq_of_getLsbD_eq
  intro i hi
  simp only [keyByte, key, BitVec.getLsbD_extractLsb', BitVec.getLsbD_append, hi, decide_true, Bool.true_and]
  have h2 : 0 + i = i := by omega
  simp [h2, hi]

/-- The decoder reads a key by its fields. -/
@[simp] theorem decode_key (cfg : Params) (c q : BitVec 4) (b : Byte) :
    decode cfg (key c q b) = decodeFields cfg c q b := by
  simp [decode]

/-- A key is made of its fields. -/
theorem key_fields (k : BitVec 16) : key (keyClass k) (keyState k) (keyByte k) = k := by
  apply BitVec.eq_of_getLsbD_eq
  intro i hi
  simp only [key, keyClass, keyState, keyByte, BitVec.getLsbD_append, BitVec.getLsbD_extractLsb']
  by_cases h1 : i < 8
  · simp [h1]
  · by_cases h2 : i - 8 < 4
    · have h3 : 8 + (i - 8) = i := by omega
      simp [h1, h2, h3]
    · have h3 : 12 + (i - 8 - 4) = i := by omega
      have h4 : i - 8 - 4 < 4 := by omega
      simp [h1, h2, h3, h4]

end Sys2Proof
end

