-- ==== Sys2Proof/Laws/State.lean ====
section
/-! SUPPORT. Each field of the state after each named update, so that no later proof unfolds a record update. -/

namespace Sys2Proof.Machine

/-! ## `enter` -/

@[simp] theorem enter_st (q : BitVec 4) (s : State) : (enter q s).st = q := rfl
@[simp] theorem enter_addrR (q : BitVec 4) (s : State) : (enter q s).addrR = s.addrR := rfl
@[simp] theorem enter_cmdR (q : BitVec 4) (s : State) : (enter q s).cmdR = s.cmdR := rfl
@[simp] theorem enter_lenR (q : BitVec 4) (s : State) : (enter q s).lenR = s.lenR := rfl
@[simp] theorem enter_csAcc (q : BitVec 4) (s : State) : (enter q s).csAcc = s.csAcc := rfl
@[simp] theorem enter_csRx (q : BitVec 4) (s : State) : (enter q s).csRx = s.csRx := rfl
@[simp] theorem enter_payIdx (q : BitVec 4) (s : State) : (enter q s).payIdx = s.payIdx := rfl
@[simp] theorem enter_payBuf (q : BitVec 4) (s : State) : (enter q s).payBuf = s.payBuf := rfl
@[simp] theorem enter_normal (q : BitVec 4) (s : State) : (enter q s).normal = s.normal := rfl
@[simp] theorem enter_syncSkipped (q : BitVec 4) (s : State) : (enter q s).syncSkipped = s.syncSkipped := rfl
@[simp] theorem enter_outKind (q : BitVec 4) (s : State) : (enter q s).outKind = s.outKind := rfl
@[simp] theorem enter_outStage (q : BitVec 4) (s : State) : (enter q s).outStage = s.outStage := rfl
@[simp] theorem enter_consumed (q : BitVec 4) (s : State) : (enter q s).consumed = s.consumed := rfl
@[simp] theorem enter_cfg (q : BitVec 4) (s : State) : (enter q s).cfg = s.cfg := rfl
@[simp] theorem enter_stream (q : BitVec 4) (s : State) : (enter q s).stream = s.stream := rfl
@[simp] theorem enter_agenda (q : BitVec 4) (s : State) : (enter q s).agenda = s.agenda := rfl
@[simp] theorem enter_payRaddr (q : BitVec 4) (s : State) : (enter q s).payRaddr = s.payRaddr := rfl
@[simp] theorem enter_sampled (q : BitVec 4) (s : State) : (enter q s).sampled = s.sampled := rfl

/-! ## `accumulate` -/

@[simp] theorem accumulate_st (b : Byte) (s : State) : (accumulate b s).st = s.st := rfl
@[simp] theorem accumulate_addrR (b : Byte) (s : State) : (accumulate b s).addrR = s.addrR := rfl
@[simp] theorem accumulate_cmdR (b : Byte) (s : State) : (accumulate b s).cmdR = s.cmdR := rfl
@[simp] theorem accumulate_lenR (b : Byte) (s : State) : (accumulate b s).lenR = s.lenR := rfl
@[simp] theorem accumulate_csAcc (b : Byte) (s : State) : (accumulate b s).csAcc = s.csAcc + b := rfl
@[simp] theorem accumulate_csRx (b : Byte) (s : State) : (accumulate b s).csRx = s.csRx := rfl
@[simp] theorem accumulate_payIdx (b : Byte) (s : State) : (accumulate b s).payIdx = s.payIdx := rfl
@[simp] theorem accumulate_payBuf (b : Byte) (s : State) : (accumulate b s).payBuf = s.payBuf := rfl
@[simp] theorem accumulate_normal (b : Byte) (s : State) : (accumulate b s).normal = s.normal := rfl
@[simp] theorem accumulate_syncSkipped (b : Byte) (s : State) : (accumulate b s).syncSkipped = s.syncSkipped := rfl
@[simp] theorem accumulate_outKind (b : Byte) (s : State) : (accumulate b s).outKind = s.outKind := rfl
@[simp] theorem accumulate_outStage (b : Byte) (s : State) : (accumulate b s).outStage = s.outStage := rfl
@[simp] theorem accumulate_consumed (b : Byte) (s : State) : (accumulate b s).consumed = s.consumed := rfl
@[simp] theorem accumulate_cfg (b : Byte) (s : State) : (accumulate b s).cfg = s.cfg := rfl
@[simp] theorem accumulate_stream (b : Byte) (s : State) : (accumulate b s).stream = s.stream := rfl
@[simp] theorem accumulate_agenda (b : Byte) (s : State) : (accumulate b s).agenda = s.agenda := rfl
@[simp] theorem accumulate_payRaddr (b : Byte) (s : State) : (accumulate b s).payRaddr = s.payRaddr := rfl
@[simp] theorem accumulate_sampled (b : Byte) (s : State) : (accumulate b s).sampled = s.sampled := rfl

/-! ## `setNormal` -/

@[simp] theorem setNormal_st (v : Bool) (s : State) : (setNormal v s).st = s.st := rfl
@[simp] theorem setNormal_addrR (v : Bool) (s : State) : (setNormal v s).addrR = s.addrR := rfl
@[simp] theorem setNormal_cmdR (v : Bool) (s : State) : (setNormal v s).cmdR = s.cmdR := rfl
@[simp] theorem setNormal_lenR (v : Bool) (s : State) : (setNormal v s).lenR = s.lenR := rfl
@[simp] theorem setNormal_csAcc (v : Bool) (s : State) : (setNormal v s).csAcc = s.csAcc := rfl
@[simp] theorem setNormal_csRx (v : Bool) (s : State) : (setNormal v s).csRx = s.csRx := rfl
@[simp] theorem setNormal_payIdx (v : Bool) (s : State) : (setNormal v s).payIdx = s.payIdx := rfl
@[simp] theorem setNormal_payBuf (v : Bool) (s : State) : (setNormal v s).payBuf = s.payBuf := rfl
@[simp] theorem setNormal_normal (v : Bool) (s : State) : (setNormal v s).normal = v := rfl
@[simp] theorem setNormal_syncSkipped (v : Bool) (s : State) : (setNormal v s).syncSkipped = s.syncSkipped := rfl
@[simp] theorem setNormal_outKind (v : Bool) (s : State) : (setNormal v s).outKind = s.outKind := rfl
@[simp] theorem setNormal_outStage (v : Bool) (s : State) : (setNormal v s).outStage = s.outStage := rfl
@[simp] theorem setNormal_consumed (v : Bool) (s : State) : (setNormal v s).consumed = s.consumed := rfl
@[simp] theorem setNormal_cfg (v : Bool) (s : State) : (setNormal v s).cfg = s.cfg := rfl
@[simp] theorem setNormal_stream (v : Bool) (s : State) : (setNormal v s).stream = s.stream := rfl
@[simp] theorem setNormal_agenda (v : Bool) (s : State) : (setNormal v s).agenda = s.agenda := rfl
@[simp] theorem setNormal_payRaddr (v : Bool) (s : State) : (setNormal v s).payRaddr = s.payRaddr := rfl
@[simp] theorem setNormal_sampled (v : Bool) (s : State) : (setNormal v s).sampled = s.sampled := rfl

/-! ## `finish` -/

@[simp] theorem finish_st (k : OutcomeKind) (s : State) : (finish k s).st = stDone := rfl
@[simp] theorem finish_addrR (k : OutcomeKind) (s : State) : (finish k s).addrR = s.addrR := rfl
@[simp] theorem finish_cmdR (k : OutcomeKind) (s : State) : (finish k s).cmdR = s.cmdR := rfl
@[simp] theorem finish_lenR (k : OutcomeKind) (s : State) : (finish k s).lenR = s.lenR := rfl
@[simp] theorem finish_csAcc (k : OutcomeKind) (s : State) : (finish k s).csAcc = s.csAcc := rfl
@[simp] theorem finish_csRx (k : OutcomeKind) (s : State) : (finish k s).csRx = s.csRx := rfl
@[simp] theorem finish_payIdx (k : OutcomeKind) (s : State) : (finish k s).payIdx = s.payIdx := rfl
@[simp] theorem finish_payBuf (k : OutcomeKind) (s : State) : (finish k s).payBuf = s.payBuf := rfl
@[simp] theorem finish_normal (k : OutcomeKind) (s : State) : (finish k s).normal = s.normal := rfl
@[simp] theorem finish_syncSkipped (k : OutcomeKind) (s : State) : (finish k s).syncSkipped = s.syncSkipped := rfl
@[simp] theorem finish_outKind (k : OutcomeKind) (s : State) : (finish k s).outKind = k.code := rfl
@[simp] theorem finish_outStage (k : OutcomeKind) (s : State) : (finish k s).outStage = s.st := rfl
@[simp] theorem finish_consumed (k : OutcomeKind) (s : State) : (finish k s).consumed = s.consumed := rfl
@[simp] theorem finish_cfg (k : OutcomeKind) (s : State) : (finish k s).cfg = s.cfg := rfl
@[simp] theorem finish_stream (k : OutcomeKind) (s : State) : (finish k s).stream = s.stream := rfl
@[simp] theorem finish_agenda (k : OutcomeKind) (s : State) : (finish k s).agenda = s.agenda := rfl
@[simp] theorem finish_payRaddr (k : OutcomeKind) (s : State) : (finish k s).payRaddr = s.payRaddr := rfl
@[simp] theorem finish_sampled (k : OutcomeKind) (s : State) : (finish k s).sampled = s.sampled := rfl

/-! ## `beginAttempt` -/

@[simp] theorem beginAttempt_st (s : State) : (beginAttempt s).st = stSync := rfl
@[simp] theorem beginAttempt_addrR (s : State) : (beginAttempt s).addrR = 0x00#8 := rfl
@[simp] theorem beginAttempt_cmdR (s : State) : (beginAttempt s).cmdR = 0x00#8 := rfl
@[simp] theorem beginAttempt_lenR (s : State) : (beginAttempt s).lenR = 0x0000#16 := rfl
@[simp] theorem beginAttempt_csAcc (s : State) : (beginAttempt s).csAcc = 0x00#8 := rfl
@[simp] theorem beginAttempt_csRx (s : State) : (beginAttempt s).csRx = 0x00#8 := rfl
@[simp] theorem beginAttempt_payIdx (s : State) : (beginAttempt s).payIdx = 0x0000#16 := rfl
@[simp] theorem beginAttempt_payBuf (s : State) : (beginAttempt s).payBuf = s.payBuf := rfl
@[simp] theorem beginAttempt_normal (s : State) : (beginAttempt s).normal = false := rfl
@[simp] theorem beginAttempt_syncSkipped (s : State) : (beginAttempt s).syncSkipped = 0x00000000#32 := rfl
@[simp] theorem beginAttempt_outKind (s : State) : (beginAttempt s).outKind = 0#3 := rfl
@[simp] theorem beginAttempt_outStage (s : State) : (beginAttempt s).outStage = 0x0#4 := rfl
@[simp] theorem beginAttempt_consumed (s : State) : (beginAttempt s).consumed = s.consumed := rfl
@[simp] theorem beginAttempt_cfg (s : State) : (beginAttempt s).cfg = s.cfg := rfl
@[simp] theorem beginAttempt_stream (s : State) : (beginAttempt s).stream = s.stream := rfl
@[simp] theorem beginAttempt_agenda (s : State) : (beginAttempt s).agenda = s.agenda := rfl
@[simp] theorem beginAttempt_payRaddr (s : State) : (beginAttempt s).payRaddr = s.payRaddr := rfl
@[simp] theorem beginAttempt_sampled (s : State) : (beginAttempt s).sampled = s.sampled := rfl

/-! ## `resetState` -/

@[simp] theorem resetState_st (s : State) : (resetState s).st = stSync := rfl
@[simp] theorem resetState_addrR (s : State) : (resetState s).addrR = 0x00#8 := rfl
@[simp] theorem resetState_cmdR (s : State) : (resetState s).cmdR = 0x00#8 := rfl
@[simp] theorem resetState_lenR (s : State) : (resetState s).lenR = 0x0000#16 := rfl
@[simp] theorem resetState_csAcc (s : State) : (resetState s).csAcc = 0x00#8 := rfl
@[simp] theorem resetState_csRx (s : State) : (resetState s).csRx = 0x00#8 := rfl
@[simp] theorem resetState_payIdx (s : State) : (resetState s).payIdx = 0x0000#16 := rfl
@[simp] theorem resetState_payBuf (s : State) : (resetState s).payBuf = s.payBuf := rfl
@[simp] theorem resetState_normal (s : State) : (resetState s).normal = false := rfl
@[simp] theorem resetState_syncSkipped (s : State) : (resetState s).syncSkipped = 0x00000000#32 := rfl
@[simp] theorem resetState_outKind (s : State) : (resetState s).outKind = 0#3 := rfl
@[simp] theorem resetState_outStage (s : State) : (resetState s).outStage = 0x0#4 := rfl
@[simp] theorem resetState_consumed (s : State) : (resetState s).consumed = 0 := rfl
@[simp] theorem resetState_cfg (s : State) : (resetState s).cfg = s.cfg := rfl
@[simp] theorem resetState_stream (s : State) : (resetState s).stream = s.stream := rfl
@[simp] theorem resetState_agenda (s : State) : (resetState s).agenda = s.agenda := rfl
@[simp] theorem resetState_payRaddr (s : State) : (resetState s).payRaddr = s.payRaddr := rfl
@[simp] theorem resetState_sampled (s : State) : (resetState s).sampled = s.sampled := rfl

/-! ## `accept` -/

@[simp] theorem accept_st (s : State) : (accept s).st = s.st := rfl
@[simp] theorem accept_addrR (s : State) : (accept s).addrR = s.addrR := rfl
@[simp] theorem accept_cmdR (s : State) : (accept s).cmdR = s.cmdR := rfl
@[simp] theorem accept_lenR (s : State) : (accept s).lenR = s.lenR := rfl
@[simp] theorem accept_csAcc (s : State) : (accept s).csAcc = s.csAcc := rfl
@[simp] theorem accept_csRx (s : State) : (accept s).csRx = s.csRx := rfl
@[simp] theorem accept_payIdx (s : State) : (accept s).payIdx = s.payIdx := rfl
@[simp] theorem accept_payBuf (s : State) : (accept s).payBuf = s.payBuf := rfl
@[simp] theorem accept_normal (s : State) : (accept s).normal = s.normal := rfl
@[simp] theorem accept_syncSkipped (s : State) : (accept s).syncSkipped = s.syncSkipped := rfl
@[simp] theorem accept_outKind (s : State) : (accept s).outKind = s.outKind := rfl
@[simp] theorem accept_outStage (s : State) : (accept s).outStage = s.outStage := rfl
@[simp] theorem accept_consumed (s : State) : (accept s).consumed = s.consumed + 1 := rfl
@[simp] theorem accept_cfg (s : State) : (accept s).cfg = s.cfg := rfl
@[simp] theorem accept_stream (s : State) : (accept s).stream = s.stream.tail := rfl
@[simp] theorem accept_agenda (s : State) : (accept s).agenda = s.agenda := rfl
@[simp] theorem accept_payRaddr (s : State) : (accept s).payRaddr = s.payRaddr := rfl
@[simp] theorem accept_sampled (s : State) : (accept s).sampled = s.sampled := rfl

/-! ## `record` -/

@[simp] theorem record_st (v : Sample) (s : State) : (record v s).st = s.st := rfl
@[simp] theorem record_addrR (v : Sample) (s : State) : (record v s).addrR = s.addrR := rfl
@[simp] theorem record_cmdR (v : Sample) (s : State) : (record v s).cmdR = s.cmdR := rfl
@[simp] theorem record_lenR (v : Sample) (s : State) : (record v s).lenR = s.lenR := rfl
@[simp] theorem record_csAcc (v : Sample) (s : State) : (record v s).csAcc = s.csAcc := rfl
@[simp] theorem record_csRx (v : Sample) (s : State) : (record v s).csRx = s.csRx := rfl
@[simp] theorem record_payIdx (v : Sample) (s : State) : (record v s).payIdx = s.payIdx := rfl
@[simp] theorem record_payBuf (v : Sample) (s : State) : (record v s).payBuf = s.payBuf := rfl
@[simp] theorem record_normal (v : Sample) (s : State) : (record v s).normal = s.normal := rfl
@[simp] theorem record_syncSkipped (v : Sample) (s : State) : (record v s).syncSkipped = s.syncSkipped := rfl
@[simp] theorem record_outKind (v : Sample) (s : State) : (record v s).outKind = s.outKind := rfl
@[simp] theorem record_outStage (v : Sample) (s : State) : (record v s).outStage = s.outStage := rfl
@[simp] theorem record_consumed (v : Sample) (s : State) : (record v s).consumed = s.consumed := rfl
@[simp] theorem record_cfg (v : Sample) (s : State) : (record v s).cfg = s.cfg := rfl
@[simp] theorem record_stream (v : Sample) (s : State) : (record v s).stream = s.stream := rfl
@[simp] theorem record_agenda (v : Sample) (s : State) : (record v s).agenda = s.agenda := rfl
@[simp] theorem record_payRaddr (v : Sample) (s : State) : (record v s).payRaddr = s.payRaddr := rfl
@[simp] theorem record_sampled (v : Sample) (s : State) : (record v s).sampled = some v := rfl

/-! ## `placeKey` -/

@[simp] theorem placeKey_st (k : BitVec 16) (s : State) : (placeKey k s).st = keyState k := rfl
@[simp] theorem placeKey_addrR (k : BitVec 16) (s : State) : (placeKey k s).addrR = s.addrR := rfl
@[simp] theorem placeKey_cmdR (k : BitVec 16) (s : State) : (placeKey k s).cmdR = s.cmdR := rfl
@[simp] theorem placeKey_lenR (k : BitVec 16) (s : State) : (placeKey k s).lenR = s.lenR := rfl
@[simp] theorem placeKey_csAcc (k : BitVec 16) (s : State) : (placeKey k s).csAcc = s.csAcc := rfl
@[simp] theorem placeKey_csRx (k : BitVec 16) (s : State) : (placeKey k s).csRx = s.csRx := rfl
@[simp] theorem placeKey_payIdx (k : BitVec 16) (s : State) : (placeKey k s).payIdx = s.payIdx := rfl
@[simp] theorem placeKey_payBuf (k : BitVec 16) (s : State) : (placeKey k s).payBuf = s.payBuf := rfl
@[simp] theorem placeKey_normal (k : BitVec 16) (s : State) : (placeKey k s).normal = s.normal := rfl
@[simp] theorem placeKey_syncSkipped (k : BitVec 16) (s : State) : (placeKey k s).syncSkipped = s.syncSkipped := rfl
@[simp] theorem placeKey_outKind (k : BitVec 16) (s : State) : (placeKey k s).outKind = s.outKind := rfl
@[simp] theorem placeKey_outStage (k : BitVec 16) (s : State) : (placeKey k s).outStage = s.outStage := rfl
@[simp] theorem placeKey_consumed (k : BitVec 16) (s : State) : (placeKey k s).consumed = s.consumed := rfl
@[simp] theorem placeKey_cfg (k : BitVec 16) (s : State) : (placeKey k s).cfg = tableParams s.cfg k := rfl
@[simp] theorem placeKey_stream (k : BitVec 16) (s : State) : (placeKey k s).stream = if keyClass k = clsByte then keyByte k :: s.stream else s.stream := rfl
@[simp] theorem placeKey_agenda (k : BitVec 16) (s : State) : (placeKey k s).agenda = .event (keyClass k) s.payRaddr :: s.agenda := rfl
@[simp] theorem placeKey_payRaddr (k : BitVec 16) (s : State) : (placeKey k s).payRaddr = s.payRaddr := rfl
@[simp] theorem placeKey_sampled (k : BitVec 16) (s : State) : (placeKey k s).sampled = s.sampled := rfl

/-! ## The status signals and reads see only the registers they name -/

@[simp] theorem outValid_iff (s : State) : outValid s = true ↔ s.st = stDone := by simp [outValid]

@[simp] theorem inDecodeState_iff (s : State) : inDecodeState s = true ↔ s.st ≤ stTrail := by simp [inDecodeState]

theorem inReady_iff (rst cancel : Bool) (s : State) :
    inReady rst cancel s = true ↔ s.st ≤ stTrail ∧ rst = false ∧ cancel = false := by
  simp [inReady, and_assoc]

theorem memRead_congr {s t : State} (hc : t.cfg = s.cfg) (hb : t.payBuf = s.payBuf) (i : BitVec 16) :
    memRead i t = memRead i s := by
  simp only [memRead, hc, hb]

/-! ## `present` and `admitByte` move only the environment's side -/

@[simp] theorem present_st (m : Stimulus) (s : State) : (present m s).st = s.st := by cases m <;> rfl
@[simp] theorem present_addrR (m : Stimulus) (s : State) : (present m s).addrR = s.addrR := by cases m <;> rfl
@[simp] theorem present_cmdR (m : Stimulus) (s : State) : (present m s).cmdR = s.cmdR := by cases m <;> rfl
@[simp] theorem present_lenR (m : Stimulus) (s : State) : (present m s).lenR = s.lenR := by cases m <;> rfl
@[simp] theorem present_csAcc (m : Stimulus) (s : State) : (present m s).csAcc = s.csAcc := by cases m <;> rfl
@[simp] theorem present_csRx (m : Stimulus) (s : State) : (present m s).csRx = s.csRx := by cases m <;> rfl
@[simp] theorem present_payIdx (m : Stimulus) (s : State) : (present m s).payIdx = s.payIdx := by cases m <;> rfl
@[simp] theorem present_payBuf (m : Stimulus) (s : State) : (present m s).payBuf = s.payBuf := by cases m <;> rfl
@[simp] theorem present_normal (m : Stimulus) (s : State) : (present m s).normal = s.normal := by cases m <;> rfl
@[simp] theorem present_syncSkipped (m : Stimulus) (s : State) : (present m s).syncSkipped = s.syncSkipped := by
  cases m <;> rfl
@[simp] theorem present_outKind (m : Stimulus) (s : State) : (present m s).outKind = s.outKind := by cases m <;> rfl
@[simp] theorem present_outStage (m : Stimulus) (s : State) : (present m s).outStage = s.outStage := by cases m <;> rfl
@[simp] theorem present_consumed (m : Stimulus) (s : State) : (present m s).consumed = s.consumed := by cases m <;> rfl
@[simp] theorem present_cfg (m : Stimulus) (s : State) : (present m s).cfg = s.cfg := by cases m <;> rfl
@[simp] theorem present_agenda (m : Stimulus) (s : State) : (present m s).agenda = s.agenda := by cases m <;> rfl
@[simp] theorem present_sampled (m : Stimulus) (s : State) : (present m s).sampled = s.sampled := by cases m <;> rfl

theorem admitByte_clsByte (s : State) : admitByte clsByte s = accept s := rfl

theorem admitByte_other {c : BitVec 4} (h : c ≠ clsByte) (s : State) : admitByte c s = s := by simp [admitByte, h]

end Sys2Proof.Machine
end

