-- ==== Sys2Proof/Laws/Memory.lean ====
section
/-! SUPPORT. The payload buffer: a read after a write, the canonical form, and what MemWrite can do. -/

namespace Sys2Proof.Machine

theorem Memory.get?_set_same (i : Nat) (b : Byte) (m : Memory) : Memory.get? i (Memory.set i b m) = some b := by
  induction m with
  | nil => simp [Memory.set, Memory.get?]
  | cons e m ih =>
    obtain ⟨j, c⟩ := e
    by_cases h1 : i < j
    · simp [Memory.set, Memory.get?, h1]
    · by_cases h2 : i = j
      · simp [Memory.set, Memory.get?, h2]
      · simp [Memory.set, Memory.get?, h1, h2, ih]

theorem Memory.get?_set_other {i a : Nat} (h : a ≠ i) (b : Byte) (m : Memory) :
    Memory.get? a (Memory.set i b m) = Memory.get? a m := by
  induction m with
  | nil => simp [Memory.set, Memory.get?, h]
  | cons e m ih =>
    obtain ⟨j, c⟩ := e
    by_cases h1 : i < j
    · simp [Memory.set, Memory.get?, h1, h]
    · by_cases h2 : i = j
      · subst h2
        simp [Memory.set, Memory.get?, h]
      · simp [Memory.set, Memory.get?, h1, h2, ih]

/-- An index listed after a write is the written one or was listed before. -/
theorem Memory.mem_set {i : Nat} {b : Byte} {m : Memory} {e : Host.Cell} (h : e ∈ Memory.set i b m) :
    e = (i, b) ∨ e ∈ m := by
  induction m with
  | nil => simpa [Memory.set] using h
  | cons f m ih =>
    obtain ⟨j, c⟩ := f
    by_cases h1 : i < j
    · simp only [Memory.set, h1, if_true, List.mem_cons] at h
      simpa [List.mem_cons] using h
    · by_cases h2 : i = j
      · simp only [Memory.set, h2, if_true, if_false, List.mem_cons, lt_irrefl] at h
        rcases h with h | h
        · exact .inl (by rw [h, h2])
        · exact .inr (List.mem_cons_of_mem _ h)
      · simp only [Memory.set, h1, h2, if_false, List.mem_cons] at h
        rcases h with h | h
        · exact .inr (by simp [h])
        · rcases ih h with h | h
          · exact .inl h
          · exact .inr (List.mem_cons_of_mem _ h)

/-- Every write keeps the canonical form. -/
theorem Memory.set_wf (i : Nat) (b : Byte) {m : Memory} (h : Memory.wf m) : Memory.wf (Memory.set i b m) := by
  induction m with
  | nil => simp [Memory.set, Memory.wf]
  | cons e m ih =>
    obtain ⟨j, c⟩ := e
    obtain ⟨hj, hm⟩ := List.pairwise_cons.mp h
    by_cases h1 : i < j
    · simp only [Memory.set, h1, if_true]
      refine List.pairwise_cons.mpr ⟨fun e he => ?_, h⟩
      rcases List.mem_cons.mp he with he | he
      · rw [he]; exact h1
      · exact h1.trans (hj e he)
    · by_cases h2 : i = j
      · subst h2
        simp only [Memory.set, lt_irrefl, if_true, if_false]
        exact List.pairwise_cons.mpr ⟨hj, hm⟩
      · simp only [Memory.set, h1, h2, if_false]
        refine List.pairwise_cons.mpr ⟨fun e he => ?_, ih hm⟩
        rcases Memory.mem_set he with he | he
        · rw [he]; simp only; omega
        · exact hj e he

theorem reset_payBuf_wf : Memory.wf State.reset.payBuf := List.Pairwise.nil

theorem bufferByte_set_same (i : Nat) (b : Byte) (m : Memory) : bufferByte (Memory.set i b m) i = b := by
  simp [bufferByte, Memory.get?_set_same]

theorem bufferByte_set_other {i a : Nat} (h : a ≠ i) (b : Byte) (m : Memory) :
    bufferByte (Memory.set i b m) a = bufferByte m a := by
  simp [bufferByte, Memory.get?_set_other h]

/-- What MemWrite can do: it stores at an index the buffer has, and stops at any other. -/
theorem memWrite_cases (i : BitVec 16) (b : Byte) (s : State) :
    (i < s.cfg.payloadCap ∧ memWrite i b s = .next { s with payBuf := Memory.set i.toNat b s.payBuf }) ∨
    (¬ i < s.cfg.payloadCap ∧ memWrite i b s = .fault (.payloadIndexOutOfRange i)) := by
  by_cases h : i < s.cfg.payloadCap <;> simp [memWrite, h]

theorem memRead_backed {i : BitVec 16} {s : State} (h : i < s.cfg.payloadCap) :
    memRead i s = bufferByte s.payBuf i.toNat := by simp [memRead, h]

theorem memRead_unbacked {i : BitVec 16} {s : State} (h : ¬ i < s.cfg.payloadCap) : memRead i s = 0x00#8 := by
  simp [memRead, h]

end Sys2Proof.Machine
end

