-- ==== Sys2Proof/Laws/Ops.lean ====
section
/-! SUPPORT. What each shared operation can do, said once: MemWrite and what follows it, the length's route, the payload index,
Validate, the handshake and the step. -/

namespace Sys2Proof.Machine

/-- Going on from an operation gives a next state only through that operation's next state. -/
theorem andThen_next {o : Host.Outcome State Fault Refusal} {f : State → Host.Outcome State Fault Refusal} {t : State} :
    andThen o f = .next t ↔ ∃ u, o = .next u ∧ f u = .next t := by
  cases o <;> simp [andThen]

/-- PAY_CAP stores at an index the buffer has and advances, or stops. -/
theorem execPayCap_cases (b : Byte) (s : State) :
    (s.payIdx < s.cfg.payloadCap ∧
      execPayCap b s =
        .next (advancePayload (accumulate b { s with payBuf := Memory.set s.payIdx.toNat b s.payBuf }))) ∨
    (¬ s.payIdx < s.cfg.payloadCap ∧ execPayCap b s = .fault (.payloadIndexOutOfRange s.payIdx)) := by
  rcases memWrite_cases s.payIdx b s with ⟨h, e⟩ | ⟨h, e⟩
  · exact .inl ⟨h, by simp [execPayCap, e, andThen]⟩
  · exact .inr ⟨h, by simp [execPayCap, e, andThen]⟩

theorem advancePayload_cases (s : State) :
    (s.payIdx + 1#16 = s.lenR ∧ advancePayload s = { s with payIdx := s.payIdx + 1#16, st := stCsum }) ∨
    (s.payIdx + 1#16 ≠ s.lenR ∧ advancePayload s = { s with payIdx := s.payIdx + 1#16 }) := by
  by_cases h : s.payIdx + 1#16 = s.lenR <;> simp [advancePayload, h, enter]

theorem routeLength_cases (s : State) :
    (s.lenR > s.cfg.payloadCap ∧ routeLength s = finish .lengthOverCap s) ∨
    (s.lenR ≤ s.cfg.payloadCap ∧ s.lenR = 0x0000#16 ∧ routeLength s = enter stCsum s) ∨
    (s.lenR ≤ s.cfg.payloadCap ∧ s.lenR ≠ 0x0000#16 ∧ routeLength s = enter stPayload s) := by
  by_cases h : s.lenR > s.cfg.payloadCap
  · exact .inl ⟨h, by simp [routeLength, h]⟩
  · have h' : s.lenR ≤ s.cfg.payloadCap := BitVec.not_lt.mp h
    by_cases z : s.lenR = 0x0000#16
    · exact .inr (.inl ⟨h', z, by simp [routeLength, z]⟩)
    · exact .inr (.inr ⟨h', z, by simp [routeLength, h, z]⟩)

/-- Validate returns one of its four kinds, each under its own condition. -/
theorem validate_cases (s : State) :
    (validate s = .structuralMismatch ∧ (s.addrR ≠ Config.addrK ∨ s.cmdR ≠ Config.cmdK)) ∨
    (s.addrR = Config.addrK ∧ s.cmdR = Config.cmdK ∧
      ((validate s = .checksumMismatch ∧ s.csAcc ≠ s.csRx) ∨
       (validate s = .trailingGarbageSkipped ∧ s.csAcc = s.csRx ∧ s.normal = false) ∨
       (validate s = .ok ∧ s.csAcc = s.csRx ∧ s.normal = true))) := by
  by_cases h1 : s.addrR = Config.addrK
  · by_cases h2 : s.cmdR = Config.cmdK
    · by_cases h3 : s.csAcc = s.csRx
      · cases h4 : s.normal <;> simp [validate, h1, h2, h3, h4]
      · simp [validate, h1, h2, h3]
    · simp [validate, h2]
  · simp [validate, h1]

/-- What a class chosen at an edge says of the levels and the state. -/
theorem arbitrate_cases {p : Pins} {s : State} {c : BitVec 4} (h : arbitrate p s = some c) :
    (c = clsReset ∧ p.rst = true) ∨
    (c = clsCancel ∧ p.rst = false ∧ p.cancel = true ∧ s.st ≤ stTrail) ∨
    (c = clsAck ∧ p.rst = false ∧ s.st = stDone ∧ p.outReady = true) ∨
    (c = clsByte ∧ p.rst = false ∧ p.cancel = false ∧ p.inValid = true ∧ s.stream ≠ [] ∧ s.st ≤ stTrail) := by
  unfold arbitrate at h
  split at h
  · next hr => exact .inl ⟨(Option.some.inj h).symm, hr⟩
  · next hr =>
    have hr' : p.rst = false := Bool.eq_false_iff.mpr hr
    split at h
    · next hc => exact .inr (.inl ⟨(Option.some.inj h).symm, hr', hc.1, hc.2⟩)
    · split at h
      · next ha => exact .inr (.inr (.inl ⟨(Option.some.inj h).symm, hr', (outValid_iff s).mp ha.1, ha.2⟩))
      · split at h
        · next hb =>
          obtain ⟨hv, hs, hi⟩ := hb
          obtain ⟨hq, -, hc⟩ := (inReady_iff _ _ _).mp hi
          exact .inr (.inr (.inr ⟨(Option.some.inj h).symm, hr', hc, hv, hs, hq⟩))
        · cases h

/-- A BYTE event is requested only while a byte is offered (R44). -/
theorem request_byte_offered {m : Stimulus} {s : State} (h : request m s = some clsByte) : s.stream ≠ [] := by
  cases m with
  | offer b => simp [request] at h
  | event c i =>
    by_cases hc : c = clsByte ∧ s.stream = []
    · simp [request, hc] at h
    · intro he
      simp only [request, hc, if_false, Option.some.injEq] at h
      exact hc ⟨h, he⟩
  | edge p =>
    rcases arbitrate_cases h with ⟨e, -⟩ | ⟨e, -⟩ | ⟨e, -⟩ | ⟨-, -, -, -, hs, -⟩
    · cases e
    · cases e
    · cases e
    · exact hs

/-- What a step that answers a next state has done: nothing pending; a move that asks for no event, or a byte in DONE; or the
operation its event selects, on the state the move leaves. -/
theorem step_cases {s t : State} (h : step s = .next t) :
    (s.agenda = [] ∧ t = s) ∨
    ∃ m rest u, s.agenda = m :: rest ∧ u = present m { s with agenda := rest } ∧
      ((request m u = none ∧ t = u) ∨
       (∃ c, request m u = some c ∧ decode u.cfg (stepKey c u) = .error .noStepInDone ∧ t = u) ∨
       (∃ c i, request m u = some c ∧ decode u.cfg (stepKey c u) = .ok i ∧ exec i (admitByte c u) = .next t)) := by
  cases ha : s.agenda with
  | nil => exact .inl ⟨rfl, by simpa [step, choose, ha] using h.symm⟩
  | cons m rest =>
    refine .inr ⟨m, rest, present m { s with agenda := rest }, rfl, rfl, ?_⟩
    cases hr : request m (present m { s with agenda := rest }) with
    | none => exact .inl ⟨rfl, by simpa [step, choose, ha, hr] using h.symm⟩
    | some c =>
      refine .inr ?_
      simp only [step, choose, ha, hr, chooseEvent] at h
      cases hd : decode (present m { s with agenda := rest }).cfg (stepKey c (present m { s with agenda := rest })) with
      | ok i =>
        rw [hd] at h
        exact .inr ⟨c, i, rfl, hd, h⟩
      | error e =>
        rw [hd] at h
        cases e with
        | noStepInDone => exact .inl ⟨c, rfl, hd, by simpa using h.symm⟩
        | reservedState q => simp at h
        | reservedClass d => simp at h

end Sys2Proof.Machine
end

