-- ==== Sys2Proof/Laws/PerInstr.lean ====
section
/-! SUPPORT. Facts about every instruction as a term of the map, one lemma per constructor. -/

namespace Sys2Proof.Laws.KeyFields

/-- The key of an instruction carries its class, its state and its byte in the three fields of 30_encoding R65. -/
def Statement (i : Instr) : Prop :=
  keyClass (encode i) = i.eventClass ∧ keyState (encode i) = i.stateField ∧ keyByte (encode i) = i.byteField

/-- The fields of any encoded instruction. -/
theorem of_encode (i : Instr) : Statement i :=
  ⟨keyClass_key _ _ _, keyState_key _ _ _, keyByte_key _ _ _⟩

theorem hdrMatch : Statement .hdrMatch := of_encode _
theorem hdrSkip (b : Byte) : Statement (.hdrSkip b) := of_encode _
theorem addrTrl : Statement .addrTrl := of_encode _
theorem addrCap (b : Byte) : Statement (.addrCap b) := of_encode _
theorem cmdTrl : Statement .cmdTrl := of_encode _
theorem cmdCap (b : Byte) : Statement (.cmdCap b) := of_encode _
theorem lenhTrl : Statement .lenhTrl := of_encode _
theorem lenhCap (b : Byte) : Statement (.lenhCap b) := of_encode _
theorem lenlTrl : Statement .lenlTrl := of_encode _
theorem lenlCap (b : Byte) : Statement (.lenlCap b) := of_encode _
theorem payTrl : Statement .payTrl := of_encode _
theorem payCap (b : Byte) : Statement (.payCap b) := of_encode _
theorem csCap (b : Byte) : Statement (.csCap b) := of_encode _
theorem trlMatch : Statement .trlMatch := of_encode _
theorem trlSkip (b : Byte) : Statement (.trlSkip b) := of_encode _
theorem ack (q : BitVec 4) : Statement (.ack q) := of_encode _
theorem cancel (q : BitVec 4) : Statement (.cancel q) := of_encode _
theorem reset (q : BitVec 4) : Statement (.reset q) := of_encode _
theorem outRead (q : BitVec 4) : Statement (.outRead q) := of_encode _
theorem payRead (q : BitVec 4) : Statement (.payRead q) := of_encode _
theorem dbgRead (q : BitVec 4) : Statement (.dbgRead q) := of_encode _

end Sys2Proof.Laws.KeyFields
end

