-- ==== Sys2Proof/Laws/Safety.lean ====
section
/-! SUPPORT. The computed invariant is the invariant. -/

namespace Sys2Proof.Machine

theorem invHolds_iff (s : State) : invHolds s = true ↔ ReachInv s := by
  simp only [invHolds, Bool.and_eq_true, decide_eq_true_eq]
  constructor
  · rintro ⟨⟨⟨⟨⟨⟨⟨h1, h2⟩, h3⟩, h4⟩, h5⟩, h6⟩, h7⟩, h8⟩
    exact ⟨h1, h2, h3, h4, h5, h6, h7, h8⟩
  · intro h
    exact ⟨⟨⟨⟨⟨⟨⟨h.state, h.attempt⟩, h.codes⟩, h.fields⟩, h.validated⟩, h.buffer⟩, h.captured⟩, h.sum⟩

end Sys2Proof.Machine
end

