-- ==== Sys2Proof/Tests/Slice0.lean ====
section
/-! SUPPORT. Tests of one operation or one step each. Expected values are worked out from spec/: the patterns of 30_encoding R68, the
vectors H, F, P, V, K and the programs of spec/95_test_vectors.md, and the examples of the rules. The last part shows, for each
obligation with premises, values that meet them. -/

namespace Sys2Proof.Tests

open Sys2Proof.Machine

/-- What `f` reads in the next state, where there is one. -/
def see {α : Type} (f : State → α) (o : Host.Outcome State Fault Refusal) : Option α :=
  match o with
  | .next t => some (f t)
  | .fault _ => none
  | .refused _ => none

/-- The fault an outcome stops with. -/
def faultOf (o : Host.Outcome State Fault Refusal) : Option Fault :=
  match o with
  | .next _ => none
  | .fault r => some r
  | .refused _ => none

/-- The refusal an outcome stops with. -/
def refusalOf (o : Host.Outcome State Fault Refusal) : Option Refusal :=
  match o with
  | .next _ => none
  | .fault _ => none
  | .refused r => some r

/-- The variant that checks the length low byte (R9). -/
def variant : Params := { payloadCap := 65535#16, checkLenLo := true }

/-- The variant of program 5 (R9). -/
def cap16 : Params := { payloadCap := 16#16, checkLenLo := false }

/-! ## WellFormed refuses an ill-formed term for each check -/

theorem test_wf_refuses_hdrSkip_header : (Instr.hdrSkip 0xBB#8).wf Params.default = false := by decide
theorem test_wf_refuses_addrCap_trailer : (Instr.addrCap 0x7E#8).wf Params.default = false := by decide
theorem test_wf_refuses_cmdCap_trailer : (Instr.cmdCap 0x7E#8).wf Params.default = false := by decide
theorem test_wf_refuses_lenhCap_trailer : (Instr.lenhCap 0x7E#8).wf Params.default = false := by decide
theorem test_wf_refuses_lenlTrl_unchecked : Instr.lenlTrl.wf Params.default = false := by decide
theorem test_wf_refuses_lenlCap_trailer : (Instr.lenlCap 0x7E#8).wf variant = false := by decide
theorem test_wf_refuses_payCap_trailer : (Instr.payCap 0x7E#8).wf Params.default = false := by decide
theorem test_wf_refuses_trlSkip_trailer : (Instr.trlSkip 0x7E#8).wf Params.default = false := by decide
theorem test_wf_takes_the_rest :
    (Instr.hdrSkip 0x7E#8).wf Params.default = true ∧ (Instr.lenlCap 0x7E#8).wf Params.default = true ∧
    Instr.lenlTrl.wf variant = true ∧ (Instr.csCap 0x7E#8).wf Params.default = true ∧
    (Instr.trlSkip 0xBB#8).wf Params.default = true := by decide

/-! ## Decoding: a word written out for each constructor -/

theorem test_decode_hdrMatch : decodeTableWord 16 0b0000000010111011 = some .hdrMatch := by decide
theorem test_decode_hdrSkip : decodeTableWord 16 0b0000000001111110 = some (.hdrSkip 0x7E#8) := by decide
theorem test_decode_addrTrl : decodeTableWord 16 0b0000000101111110 = some .addrTrl := by decide
theorem test_decode_addrCap : decodeTableWord 16 0b0000000110111011 = some (.addrCap 0xBB#8) := by decide
theorem test_decode_cmdTrl : decodeTableWord 16 0b0000001001111110 = some .cmdTrl := by decide
theorem test_decode_cmdCap : decodeTableWord 16 0b0000001000100010 = some (.cmdCap 0x22#8) := by decide
theorem test_decode_lenhTrl : decodeTableWord 16 0b0000001101111110 = some .lenhTrl := by decide
theorem test_decode_lenhCap : decodeTableWord 16 0b0000001100000001 = some (.lenhCap 0x01#8) := by decide
theorem test_decode_lenlTrl : decodeTableWord 16 0b0000010001111110 = some .lenlTrl := by decide
theorem test_decode_lenlCap : decodeTableWord 16 0b0000010010000000 = some (.lenlCap 0x80#8) := by decide
theorem test_decode_payTrl : decodeTableWord 16 0b0000010101111110 = some .payTrl := by decide
theorem test_decode_payCap : decodeTableWord 16 0b0000010101011010 = some (.payCap 0x5A#8) := by decide
theorem test_decode_csCap : decodeTableWord 16 0b0000011001111110 = some (.csCap 0x7E#8) := by decide
theorem test_decode_trlMatch : decodeTableWord 16 0b0000011101111110 = some .trlMatch := by decide
theorem test_decode_trlSkip : decodeTableWord 16 0b0000011111000011 = some (.trlSkip 0xC3#8) := by decide
theorem test_decode_ack : decodeTableWord 16 0b0001100000000000 = some (.ack 0x8#4) := by decide
theorem test_decode_cancel : decodeTableWord 16 0b0010010100000000 = some (.cancel 0x5#4) := by decide
theorem test_decode_reset : decodeTableWord 16 0b0011011101010101 = some (.reset 0x7#4) := by decide
theorem test_decode_outRead : decodeTableWord 16 0b0100100000000000 = some (.outRead 0x8#4) := by decide
theorem test_decode_payRead : decodeTableWord 16 0b0101100000000000 = some (.payRead 0x8#4) := by decide
theorem test_decode_dbgRead : decodeTableWord 16 0b0110001000000000 = some (.dbgRead 0x2#4) := by decide

/-- R67, R69: a byte in DONE, a byte in a reserved state, a reserved class; and row 10 takes 0x047E by default. -/
theorem test_decode_no_row :
    decodeTableWord 16 0x08AA = none ∧ decodeTableWord 16 0x0F00 = none ∧ decodeTableWord 16 0x7000 = none ∧
    (firstRow Params.default 0x047E#16).map OpRow.mnemonic = some "LENL_CAP" := by decide

/-! ## States of the vectors -/

/-- In ADDR, after `BB`. -/
def inAddr : State := { State.reset with st := stAddr, consumed := 1 }

/-- In CMD, after `BB 02`. -/
def inCmd : State := { State.reset with st := stCmd, addrR := 0x02#8, csAcc := 0x02#8, consumed := 2 }

/-- In LENH, after `BB 02 22`. -/
def inLenh : State := { State.reset with st := stLenh, addrR := 0x02#8, cmdR := 0x22#8, csAcc := 0x24#8, consumed := 3 }

/-- In LENL, after `BB 02 22 00`. -/
def inLenl : State := { inLenh with st := stLenl, consumed := 4 }

/-- In PAYLOAD, after `BB 02 22 00 02 10`. -/
def inPayload : State :=
  { inLenh with st := stPayload, lenR := 0x0002#16, csAcc := 0x36#8, payIdx := 1#16, payBuf := [(0, 0x10#8)], consumed := 6 }

/-- In CSUM, after `BB 02 22 00 01 59`. -/
def inCsum : State :=
  { inLenh with st := stCsum, lenR := 0x0001#16, csAcc := 0x7E#8, payIdx := 1#16, payBuf := [(0, 0x59#8)], consumed := 6 }

/-- In TRAIL, after `BB 02 22 00 00 24`. -/
def inTrail : State := { inLenh with st := stTrail, csRx := 0x24#8, normal := true, consumed := 6 }

/-- In DONE, holding the outcome of E1', `BB 02 22 00 02 10 00 36 7E`. -/
def inDone : State :=
  { inLenh with
    st := stDone, lenR := 0x0002#16, csAcc := 0x36#8, csRx := 0x36#8, payIdx := 2#16
    payBuf := [(0, 0x10#8), (1, 0x00#8)], normal := true, outStage := stTrail, consumed := 9 }

/-- In DONE, holding P2, `BB 02 22 00 02 10 7E`. -/
def collided : State := { inPayload with st := stDone, outKind := 1#3, outStage := stPayload, consumed := 7 }

/-- `s` with `u` offered and the moves `ms` to come. -/
def fed (u : List Byte) (ms : List Stimulus) (s : State) : State := { s with stream := u, agenda := ms }

/-! ## Header synchronisation -/

/-- H1. -/
theorem test_hdrMatch_enters_addr :
    see (fun t => (t.st, t.syncSkipped, t.csAcc)) (exec .hdrMatch State.reset) = some (stAddr, 0#32, 0x00#8) := by decide

/-- H2. -/
theorem test_hdrSkip_counts :
    see (fun t => (t.st, t.syncSkipped)) (exec (.hdrSkip 0x7E#8) State.reset) = some (stSync, 1#32) := by decide

/-- H4. -/
theorem test_hdrSkip_saturates :
    see (fun t => t.syncSkipped) (exec (.hdrSkip 0x00#8) { State.reset with syncSkipped := 0xFFFFFFFF#32 }) =
      some 0xFFFFFFFF#32 := by decide

/-! ## Field capture -/

/-- F1. -/
theorem test_addrTrl_ends :
    see (fun t => (t.st, t.outKind, t.outStage, t.addrR, t.csAcc)) (exec .addrTrl inAddr) =
      some (0x8#4, 1#3, 0x1#4, 0x00#8, 0x00#8) := by decide

/-- H5: the second `BB` is the address. -/
theorem test_addrCap_takes_the_header_byte :
    see (fun t => (t.st, t.addrR, t.csAcc)) (exec (.addrCap 0xBB#8) inAddr) = some (0x2#4, 0xBB#8, 0xBB#8) := by decide

/-- F2. -/
theorem test_cmdTrl_ends :
    see (fun t => (t.st, t.outKind, t.outStage, t.addrR, t.cmdR, t.csAcc)) (exec .cmdTrl inCmd) =
      some (0x8#4, 1#3, 0x2#4, 0x02#8, 0x00#8, 0x02#8) := by decide

/-- F7: 0xF0 + 0x20 wraps to 0x10. -/
theorem test_cmdCap_wraps :
    see (fun t => (t.st, t.cmdR, t.csAcc)) (exec (.cmdCap 0x20#8) { inCmd with addrR := 0xF0#8, csAcc := 0xF0#8 }) =
      some (0x3#4, 0x20#8, 0x10#8) := by decide

/-- F3. -/
theorem test_lenhTrl_ends :
    see (fun t => (t.st, t.outKind, t.outStage, t.lenR, t.csAcc)) (exec .lenhTrl inLenh) =
      some (0x8#4, 1#3, 0x3#4, 0x0000#16, 0x24#8) := by decide

/-- F8, its fourth byte. -/
theorem test_lenhCap_writes_the_high_byte :
    see (fun t => (t.st, t.lenR, t.csAcc)) (exec (.lenhCap 0x01#8) inLenh) = some (0x4#4, 0x0100#16, 0x25#8) := by decide

/-- F6. -/
theorem test_lenlTrl_ends :
    see (fun t => (t.st, t.outKind, t.outStage, t.lenR, t.csAcc)) (exec .lenlTrl { inLenl with cfg := variant }) =
      some (0x8#4, 1#3, 0x4#4, 0x0000#16, 0x24#8) := by decide

/-- F4: 0x7E is data. -/
theorem test_lenlCap_takes_the_trailer_byte :
    see (fun t => (t.st, t.lenR, t.csAcc)) (exec (.lenlCap 0x7E#8) inLenl) = some (0x5#4, 0x007E#16, 0xA2#8) := by decide

/-- F8: the length 256 is over the cap 16. -/
theorem test_lenlCap_over_the_cap :
    see (fun t => (t.st, t.outKind, t.outStage, t.lenR, t.csAcc))
      (exec (.lenlCap 0x00#8) { inLenl with cfg := cap16, lenR := 0x0100#16, csAcc := 0x25#8 }) =
      some (0x8#4, 5#3, 0x4#4, 0x0100#16, 0x25#8) := by decide

/-! ## Payload -/

/-- P2. -/
theorem test_payTrl_ends :
    see (fun t => (t.st, t.outKind, t.outStage, t.payIdx, t.csAcc)) (exec .payTrl inPayload) =
      some (0x8#4, 1#3, 0x5#4, 1#16, 0x36#8) := by decide

/-- E1', its seventh byte: the last payload byte goes to CSUM. -/
theorem test_payCap_completes :
    see (fun t => (t.st, t.payIdx, t.csAcc, t.payBuf)) (exec (.payCap 0x00#8) inPayload) =
      some (0x6#4, 2#16, 0x36#8, [(0, 0x10#8), (1, 0x00#8)]) := by decide

/-- Log entry 7: no buffer, so no index to write. -/
theorem test_payCap_outside_the_buffer :
    faultOf (exec (.payCap 0x00#8) { inPayload with cfg := { cap16 with payloadCap := 1#16 } }) =
      some (.payloadIndexOutOfRange 1#16) := by decide

/-! ## Checksum, trailer, validation -/

/-- V5: the checksum may equal the trailer. -/
theorem test_csCap_takes_the_trailer_byte :
    see (fun t => (t.st, t.csRx, t.normal, t.csAcc)) (exec (.csCap 0x7E#8) inCsum) =
      some (0x7#4, 0x7E#8, true, 0x7E#8) := by decide

/-- V1 and V2. -/
theorem test_trlMatch_ok_and_garbage :
    see (fun t => (t.st, t.outKind, t.outStage)) (exec .trlMatch inTrail) = some (0x8#4, 0#3, 0x7#4) ∧
    see (fun t => t.outKind) (exec .trlMatch { inTrail with normal := false }) = some 4#3 := by decide

/-- V3 and V4: checksum before garbage, structure before both. -/
theorem test_trlMatch_priority :
    see (fun t => t.outKind) (exec .trlMatch { inTrail with csRx := 0x25#8, normal := false }) = some 3#3 ∧
    see (fun t => t.outKind) (exec .trlMatch { inTrail with addrR := 0x03#8, csAcc := 0x25#8, normal := false }) =
      some 2#3 := by decide

/-- V8: 0xBB in TRAIL is garbage. -/
theorem test_trlSkip_clears_normal :
    see (fun t => (t.st, t.normal, t.syncSkipped)) (exec (.trlSkip 0xBB#8) inTrail) = some (0x7#4, false, 0#32) := by decide

/-! ## Control and reads -/

/-- K5: the registers are cleared and the buffer kept. -/
theorem test_ack_in_done :
    see (fun t => (t.st, t.addrR, t.lenR, t.csAcc, t.normal, t.outStage)) (exec (.ack 0x8#4) inDone) =
      some (0x0#4, 0x00#8, 0x0000#16, 0x00#8, false, 0x0#4) ∧
    see (fun t => t.payBuf) (exec (.ack 0x8#4) inDone) = some [(0, 0x10#8), (1, 0x00#8)] := by decide

/-- K4. -/
theorem test_ack_elsewhere : see id (exec (.ack 0x2#4) inCmd) = some inCmd := by decide

/-- K1. -/
theorem test_cancel_in_payload :
    see (fun t => (t.st, t.outKind, t.outStage, t.lenR, t.csRx, t.csAcc)) (exec (.cancel 0x5#4) inPayload) =
      some (0x8#4, 6#3, 0x5#4, 0x0002#16, 0x00#8, 0x36#8) := by decide

/-- K3. -/
theorem test_cancel_in_done : see id (exec (.cancel 0x8#4) inDone) = some inDone := by decide

/-- K6. -/
theorem test_reset_in_trail : see id (exec (.reset 0x7#4) inTrail) = some State.reset := by decide

/-- R143: the outcome of E2, `BB 02 22 00 00 CC 7E`. -/
theorem test_outRead_of_e2 :
    see (fun t => t.sampled)
      (exec (.outRead 0x8#4) { inTrail with st := stDone, csRx := 0xCC#8, outKind := 3#3, outStage := 0x7#4 }) =
      some (some (.outcome ⟨true, 3#3, 0x7#4, 0x02#8, 0x22#8, 0x0000#16, 0xCC#8, 0x24#8, true, 0#32⟩)) := by decide

/-- K7: indices 0 and 1. -/
theorem test_payRead_of_e1 :
    see (fun t => t.sampled) (exec (.payRead 0x8#4) inDone) = some (some (.payload 0x10#8)) ∧
    see (fun t => t.sampled) (exec (.payRead 0x8#4) { inDone with payRaddr := 1#16 }) = some (some (.payload 0x00#8)) := by
  decide

/-- K7: the index 0xFFFF is not backed, and reads 0x00. -/
theorem test_payRead_past_the_capacity :
    see (fun t => t.sampled) (exec (.payRead 0x8#4) { inDone with payRaddr := 0xFFFF#16 }) = some (some (.payload 0x00#8)) := by
  decide

/-- R145: after `BB 02`, DBG_READ gives CMD. -/
theorem test_dbgRead_in_cmd : see (fun t => t.sampled) (exec (.dbgRead 0x2#4) inCmd) = some (some (.debug 0x2#4)) := by decide

/-! ## One step: the handshake -/

/-- K8: a byte offered in DONE waits. -/
theorem test_byte_waits_in_done :
    see (fun t => (t.st, t.stream, t.consumed)) (step (fed [0xBB#8] [.event clsByte 0#16] inDone)) =
      some (stDone, [0xBB#8], 9) := by decide

/-- K9: the cancel is taken and the byte is not consumed. -/
theorem test_cancel_edge_keeps_the_byte :
    see (fun t => (t.st, t.outKind, t.outStage, t.stream, t.consumed))
      (step (fed [0xBB#8] [.edge ⟨false, true, true, false, 0#16⟩] State.reset)) =
      some (stDone, 6#3, stSync, [0xBB#8], 0) := by decide

/-- K10: reset wins over the acknowledge. -/
theorem test_reset_edge_discards_the_outcome :
    see (fun t => (t.st, t.consumed, t.payBuf)) (step (fed [] [.edge ⟨true, false, false, true, 0#16⟩] inDone)) =
      some (stSync, 0, [(0, 0x10#8), (1, 0x00#8)]) := by decide

/-- Program 1: the step key of `11` in PAYLOAD, with the byte taken from the stream. -/
theorem test_byte_edge_runs_the_row :
    see (fun t => (t.st, t.stream, t.consumed, t.csAcc))
      (step (fed [0x11#8, 0x22#8] [.edge ⟨false, false, true, false, 0#16⟩]
        { inLenh with st := stPayload, lenR := 0x0004#16, csAcc := 0x28#8, consumed := 7 })) =
      some (stPayload, [0x22#8], 8, 0x39#8) := by decide

/-- The table's words, placed at reset, run as the next step: rows 1, 9 and 16. -/
theorem test_placed_words_run :
    see (fun t => t.st) (step (State.reset.withFetchWord 16 0x00BB)) = some stAddr ∧
    see (fun t => (t.st, t.outKind, t.outStage)) (step (State.reset.withFetchWord 16 0x047E)) = some (stDone, 1#3, stLenl) ∧
    see (fun t => t.st) (step (State.reset.withFetchWord 16 0x1800)) = some stSync := by decide

/-- R69: a stimulus of a reserved class is refused, and so is a byte in a reserved state. -/
theorem test_reserved_are_refused :
    refusalOf (step (fed [] [.event 0x7#4 0#16] State.reset)) = some (.reservedClass 0x7#4) ∧
    refusalOf (step (fed [0x00#8] [.event clsByte 0#16] { State.reset with st := 0x9#4 })) = some (.reservedState 0x9#4) ∧
    refusalOf (launch { State.reset with st := 0xF#4 }) = some (.reservedState 0xF#4) ∧
    refusalOf (launch { State.reset with outKind := 7#3 }) = some .reservedOutcomeKind ∧
    refusalOf (launch { State.reset with normal := true }) = some .brokenInvariant := by decide

/-! ## Witnesses: values that meet the premises of each obligation that has any -/

theorem witness_inv_addr : ReachInv inAddr := (invHolds_iff _).mp (by decide)
theorem witness_inv_lenh : ReachInv inLenh := (invHolds_iff _).mp (by decide)
theorem witness_inv_lenl : ReachInv inLenl := (invHolds_iff _).mp (by decide)
theorem witness_inv_payload : ReachInv inPayload := (invHolds_iff _).mp (by decide)
theorem witness_inv_csum : ReachInv inCsum := (invHolds_iff _).mp (by decide)
theorem witness_inv_done : ReachInv inDone := (invHolds_iff _).mp (by decide)
theorem witness_inv_collided : ReachInv collided := (invHolds_iff _).mp (by decide)
theorem witness_inv_reset : ReachInv State.reset := (invHolds_iff _).mp (by decide)

theorem witness_DecodeOfEncodeIsTheInstruction :
    (Instr.hdrSkip 0xBC#8).wf Params.default = true ∧ (Instr.lenlCap 0x7E#8).wf Params.default = true ∧
    Instr.lenlTrl.wf variant = true ∧ (Instr.dbgRead 0xF#4).wf variant = true := by decide

theorem witness_EncodeOfDecodeIsTheKey :
    decode Params.default 0x06FF#16 = .ok (.csCap 0xFF#8) ∧ decode Params.default 0x18AA#16 = .ok (.ack 0x8#4) := ⟨rfl, rfl⟩

theorem witness_DecoderFollowsTheOperationMap :
    decode variant 0x047E#16 = .ok .lenlTrl ∧ decode variant 0x08FF#16 = .error .noStepInDone ∧
    Params.default.checkLenLo = false := ⟨rfl, rfl, rfl⟩

/-- The first and the last class of each range, a reserved `st`, and a reserved class to come. -/
theorem witness_ReservedKeysAndCodesAreRefused :
    (0x1#4 ≤ 0x1#4 ∧ (0x1#4 : BitVec 4) ≤ 0x6#4) ∧ (0x1#4 ≤ 0x6#4 ∧ (0x6#4 : BitVec 4) ≤ 0x6#4) ∧
    (0x7#4 : BitVec 4) ≤ 0x7#4 ∧ (0x9#4 : BitVec 4) ≤ { State.reset with st := 0x9#4 }.st ∧
    (fed [] [.event 0x7#4 0#16] State.reset).agenda = .event 0x7#4 0#16 :: [] := by decide

/-- A byte step and an ACK step. -/
theorem witness_StepRunsTheDecodedInstruction :
    (∃ (s u : State) (m : Stimulus) (rest : List Stimulus), s.agenda = m :: rest ∧ u = present m { s with agenda := rest } ∧ request m u = some clsByte ∧
      decode u.cfg (key clsByte u.st (u.stream.headD 0x00#8)) = .ok (.payCap 0x00#8)) ∧
    (∃ (s u : State) (m : Stimulus) (rest : List Stimulus), s.agenda = m :: rest ∧ u = present m { s with agenda := rest } ∧ request m u = some clsAck ∧
      decode u.cfg (key clsAck u.st 0x00#8) = .ok (.ack stDone)) :=
  ⟨⟨fed [0x00#8] [.event clsByte 0#16] inPayload, _, _, _, rfl, rfl, rfl, rfl⟩,
   ⟨fed [] [.edge ⟨false, true, false, true, 0#16⟩] inDone, _, _, _, rfl, rfl, rfl, rfl⟩⟩

/-- Row 9's own key, and the greatest key with a row. -/
theorem witness_PlacedWordRunsNext :
    decode (tableParams State.reset.cfg (BitVec.ofNat 16 0x047E)) (BitVec.ofNat 16 0x047E) = .ok .lenlTrl ∧
    decode (tableParams State.reset.cfg (BitVec.ofNat 16 0x6FFF)) (BitVec.ofNat 16 0x6FFF) = .ok (.dbgRead 0xF#4) :=
  ⟨rfl, rfl⟩

/-- Each clause, with the least priority event also asked for at the same edge. -/
theorem witness_EdgeTakesTheFirstEventInPriority :
    (∃ (s : State) (p : Pins), s.agenda = [.edge p] ∧ p.rst = true ∧ p.cancel = true ∧ p.inValid = true) ∧
    (∃ (s : State) (p : Pins), s.agenda = [.edge p] ∧ p.rst = false ∧ p.cancel = true ∧ p.inValid = true ∧ s.st = 0x7#4) ∧
    (∃ (s : State) (p : Pins), s.agenda = [.edge p] ∧ p.rst = false ∧ s.st = 0x8#4 ∧ p.outReady = true) ∧
    (∃ (s : State) (p : Pins), s.agenda = [.edge p] ∧ p.rst = false ∧ p.cancel = false ∧ s.st ≤ 0x7#4 ∧ p.inValid = true ∧
      s.stream = 0xBB#8 :: []) ∧
    (∃ (s : State) (p : Pins), s.agenda = [.edge p] ∧ p.rst = false ∧ 0x8#4 ≤ s.st ∧ (s.st = 0x8#4 → p.outReady = false)) ∧
    (∃ (s : State) (p : Pins), s.agenda = [.edge p] ∧ p.rst = false ∧ p.cancel = false ∧ s.st ≤ 0x7#4 ∧
      (p.inValid = false ∨ s.stream = [])) :=
  ⟨⟨fed [0xBB#8] [.edge ⟨true, true, true, true, 0#16⟩] inTrail, _, rfl, by decide⟩,
   ⟨fed [0xBB#8] [.edge ⟨false, true, true, true, 0#16⟩] inTrail, _, rfl, by decide⟩,
   ⟨fed [0xBB#8] [.edge ⟨false, true, true, true, 0#16⟩] inDone, _, rfl, by decide⟩,
   ⟨fed [0xBB#8] [.edge ⟨false, false, true, true, 0#16⟩] State.reset, _, rfl, by decide⟩,
   ⟨fed [0xBB#8] [.edge ⟨false, true, true, false, 0#16⟩] inDone, _, rfl, by decide⟩,
   ⟨fed [] [.edge ⟨false, false, true, true, 0#16⟩] inTrail, _, rfl, by decide⟩⟩

theorem witness_NoEventLeavesTheState :
    State.reset.agenda = [] ∧
    (∃ (s : State) (p : Pins), s.agenda = [.edge p] ∧ p.rst = false ∧ ¬ (p.cancel = true ∧ s.st ≤ 0x7#4) ∧
      ¬ (s.st = 0x8#4 ∧ p.outReady = true) ∧
      ¬ (p.inValid = true ∧ s.stream ≠ [] ∧ s.st ≤ 0x7#4 ∧ p.cancel = false)) :=
  ⟨rfl, fed [0xBB#8] [.edge ⟨false, true, true, false, 0#16⟩] inDone, _, rfl, by decide⟩

/-- An accepted byte, a byte that waits, an event that takes no byte, and a reset. -/
theorem witness_StreamIsTakenByByteStepsOnly :
    (∃ t, step (fed [0x7E#8] [.event clsByte 0#16] inTrail) = .next t ∧ inTrail.st ≤ 0x7#4) ∧
    (∃ t, step (fed [0x7E#8] [.event clsByte 0#16] inDone) = .next t ∧ ¬ inDone.st ≤ 0x7#4) ∧
    (∃ t, step (fed [0x7E#8] [.event clsCancel 0#16] inTrail) = .next t) ∧
    (∃ t, step (fed [0x7E#8] [.event clsReset 0#16] inTrail) = .next t) :=
  ⟨⟨_, rfl, by decide⟩, ⟨_, rfl, by decide⟩, ⟨_, rfl⟩, ⟨_, rfl⟩⟩

/-- Each state of the table; in PAYLOAD and LENL the values where the route changes. -/
theorem witness_FsmTransitionsFollowTheTable :
    (State.reset.st = stSync ∧ inAddr.st = stAddr ∧ inCmd.st = stCmd ∧ inLenh.st = stLenh ∧ inLenl.st = stLenl ∧
      inPayload.st = stPayload ∧ inCsum.st = stCsum ∧ inTrail.st = stTrail ∧ inTrail.st ≤ 0x7#4 ∧ inDone.st = stDone) ∧
    (inPayload.payIdx < inPayload.lenR ∧ inPayload.lenR ≤ inPayload.cfg.payloadCap ∧
      inPayload.payIdx.toNat + 1 = inPayload.lenR.toNat) ∧
    (0x0011 > cap16.payloadCap.toNat ∧ ¬ 0x0010 > cap16.payloadCap.toNat ∧ variant.checkLenLo = true) := by decide

theorem witness_HeaderByteEntersAddress : ReachInv State.reset ∧ State.reset.st = stSync := ⟨witness_inv_reset, rfl⟩

theorem witness_PreHeaderByteIsCounted : (0x7E#8 : Byte) ≠ 0xBB#8 ∧ (0xBC#8 : Byte) ≠ 0xBB#8 := by decide

theorem witness_LeadingNoiseOnlyCounts :
    ∃ s : State, s.st = stSync ∧ 0xBB#8 ∉ [0x00#8, 0x7E#8] ∧ s.stream = [0x00#8, 0x7E#8] ++ [0xBB#8] ∧
      s.agenda = List.replicate 2 (.event clsByte s.payRaddr) ++ [] :=
  ⟨fed [0x00#8, 0x7E#8, 0xBB#8] [.event clsByte 0#16, .event clsByte 0#16] { State.reset with syncSkipped := 0xFFFFFFFE#32 },
   rfl, by decide, rfl, rfl⟩

/-- A next state, a fault and a refusal, from states that differ in a stale byte and in the count of skipped bytes. -/
theorem witness_StaleBytesNeverReachAnOutcome :
    (∃ s u : State, u ≠ s ∧
      u = { s with payBuf := u.payBuf, syncSkipped := u.syncSkipped, consumed := u.consumed, sampled := u.sampled } ∧
      see (fun t => t.st) (step s) = some stAddr) ∧
    (faultOf (step (fed [0x00#8] [.event clsByte 0#16] { inPayload with cfg := { cap16 with payloadCap := 1#16 } })) =
      some (.payloadIndexOutOfRange 1#16)) ∧
    (refusalOf (step (fed [] [.event 0xF#4 0#16] inDone)) = some (.reservedClass 0xF#4)) :=
  ⟨⟨fed [0xBB#8] [.event clsByte 0#16] State.reset,
    fed [0xBB#8] [.event clsByte 0#16] { State.reset with payBuf := [(0, 0x10#8)], syncSkipped := 3#32 },
    by decide, rfl, by decide⟩, by decide, by decide⟩

/-- The last payload byte is stored while a stale byte stands just past it, at the first index the two buffers need not share. -/
theorem witness_StaleBytesNeverReachAnOutcome_agreeing :
    ∃ s u : State, s = fed [0x00#8] [.event clsByte 0#16] inPayload ∧
      u = { s with payBuf := [(0, 0x10#8), (1, 0xEE#8), (2, 0xEE#8)] } ∧
      ReachInv s ∧ u.syncSkipped = s.syncSkipped ∧ s.payIdx = 1#16 ∧ memRead 0#16 u = memRead 0#16 s ∧
      see (fun t => t.payIdx) (step s) = some 2#16 :=
  ⟨_, _, rfl, rfl, (invHolds_iff _).mp (by decide), rfl, rfl, by decide, by decide⟩

theorem witness_TrailerCollisionEndsTheAttempt :
    (Instr.addrTrl ∈ [Instr.addrTrl, .cmdTrl, .lenhTrl, .lenlTrl, .payTrl] ∧ variant.checkLenLo = true) ∧
    ReachInv inAddr ∧ inAddr.st = stAddr ∧ ReachInv inCmd ∧ inCmd.st = stCmd ∧ ReachInv inPayload ∧
    inPayload.st = stPayload :=
  ⟨by decide, witness_inv_addr, rfl, (invHolds_iff _).mp (by decide), rfl, witness_inv_payload, rfl⟩

/-- The bytes on either side of the trailer constant; a reachable state in ADDR. -/
theorem witness_AddressByteIsCaptured :
    (0x7D#8 : Byte) ≠ 0x7E#8 ∧ (0x7F#8 : Byte) ≠ 0x7E#8 ∧ ReachInv inAddr ∧ inAddr.st = stAddr :=
  ⟨by decide, by decide, witness_inv_addr, rfl⟩

theorem witness_CommandByteIsCaptured : (0x7D#8 : Byte) ≠ 0x7E#8 ∧ (0x7F#8 : Byte) ≠ 0x7E#8 := by decide

theorem witness_LengthHighByteIsCaptured :
    (0x7D#8 : Byte) ≠ 0x7E#8 ∧ (0x7F#8 : Byte) ≠ 0x7E#8 ∧ ReachInv inLenh ∧ inLenh.st = stLenh :=
  ⟨by decide, by decide, witness_inv_lenh, rfl⟩

/-- Over the cap by one, at the cap, at zero, the default capacity; and 0x7E where it is not checked. -/
theorem witness_LengthLowByteRoutesTheAttempt :
    (¬ (cap16.checkLenLo = true ∧ (0x11#8 : Byte) = 0x7E#8) ∧ BitVec.ofNat 16 0x11 > cap16.payloadCap) ∧
    (BitVec.ofNat 16 0x10 ≤ cap16.payloadCap ∧ BitVec.ofNat 16 0x10 ≠ 0x0000#16) ∧
    (BitVec.ofNat 16 0x00 ≤ cap16.payloadCap ∧ BitVec.ofNat 16 0x00 = 0x0000#16) ∧
    Params.default.payloadCap = 65535#16 ∧ ¬ (Params.default.checkLenLo = true ∧ (0x7E#8 : Byte) = 0x7E#8) := by decide

theorem witness_FieldsAfterTheLengthAreSummed :
    ReachInv inLenl ∧ inLenl.st = stLenl ∧ decode inLenl.cfg (key clsByte inLenl.st 0x7E#8) = .ok (.lenlCap 0x7E#8) ∧
    ∃ t, exec (.lenlCap 0x7E#8) inLenl = .next t ∧ t.st ≠ stDone :=
  ⟨witness_inv_lenl, rfl, rfl, _, rfl, by decide⟩

/-- A collision in the payload, and one at each field (F1, F2, F3, F6). -/
theorem witness_CollisionShowsTheCapturedFields :
    (ReachInv collided ∧ collided.st = stDone ∧ collided.outKind = 1#3 ∧ collided.outStage = stPayload) ∧
    (∀ i : Instr × State, i ∈ [(.addrTrl, inAddr), (.cmdTrl, inCmd), (.lenhTrl, inLenh), (.lenlTrl, { inLenl with cfg := variant })] →
      see (fun t => (invHolds t, t.st, t.outKind, t.outStage)) (exec i.1 i.2) = some (true, stDone, 1#3, i.2.st)) :=
  ⟨⟨witness_inv_collided, rfl, rfl, rfl⟩, by decide⟩

theorem witness_PayloadByteIsCollected :
    (0x7D#8 : Byte) ≠ 0x7E#8 ∧ inPayload.payIdx < inPayload.lenR ∧ inPayload.lenR ≤ inPayload.cfg.payloadCap := by decide

/-- A PAY_CAP and an index it does not write, another operation, and the first and last index of the buffer. -/
theorem witness_PayloadBufferIsWrittenByPayCapOnly :
    (∃ t, exec (.payCap 0x00#8) inPayload = .next t ∧ (2#16 : BitVec 16) ≠ inPayload.payIdx) ∧
    (∃ t, exec (.csCap 0x00#8) inCsum = .next t) ∧
    inPayload.payIdx < inPayload.cfg.payloadCap ∧
    0#16 < State.reset.cfg.payloadCap ∧ 0xFFFE#16 < State.reset.cfg.payloadCap :=
  ⟨⟨_, rfl, by decide⟩, ⟨_, rfl⟩, by decide, by decide, by decide⟩

/-- The last payload byte, a collision and a cancel. -/
theorem witness_PayloadLengthIsExact :
    ReachInv inPayload ∧
    see (fun t => t.st) (step (fed [0x00#8] [.event clsByte 0#16] inPayload)) = some stCsum ∧
    see (fun t => t.st) (step (fed [0x7E#8] [.event clsByte 0#16] inPayload)) = some stDone ∧
    invHolds (fed [0x7E#8] [.event clsByte 0#16] inPayload) = true :=
  ⟨witness_inv_payload, by decide, by decide, by decide⟩

theorem witness_ChecksumAccumulatorIsTheSum :
    (∃ t, exec (.payCap 0xFF#8) inPayload = .next t) ∧ (∃ t, exec (.ack stDone) inDone = .next t ∧ inDone.st = stDone) ∧
    ReachInv inCsum ∧ inCsum.st = stCsum :=
  ⟨⟨_, rfl⟩, ⟨_, rfl, rfl⟩, witness_inv_csum, rfl⟩

/-- Each row of the table, a wrong address and a wrong command, and the first and last bit flipped. -/
theorem witness_FlippedChecksumBitNeverPasses :
    (inTrail.addrR = 0x02#8 ∧ inTrail.cmdR = 0x22#8 ∧ inTrail.csAcc = inTrail.csRx ∧ inTrail.normal = true) ∧
    { inTrail with normal := false }.normal = false ∧
    inTrail.csAcc ≠ { inTrail with csRx := 0x25#8 }.csRx ∧
    { inTrail with addrR := 0x03#8 }.addrR ≠ 0x02#8 ∧ { inTrail with cmdR := 0x23#8 }.cmdR ≠ 0x22#8 ∧
    { inTrail with csRx := 0x25#8 }.csRx = inTrail.csAcc ^^^ (1#8 <<< 0) ∧
    { inTrail with csRx := 0xA4#8 }.csRx = inTrail.csAcc ^^^ (1#8 <<< 7) := by decide

theorem witness_TrailingGarbageClearsNormal : (0xBB#8 : Byte) ≠ 0x7E#8 ∧ (0x7F#8 : Byte) ≠ 0x7E#8 := by decide

/-- E1', and a cancel that comes while it is held. -/
theorem witness_OkOutcomeIsAValidFrame :
    ReachInv (fed [] [.event clsCancel 0#16] inDone) ∧ inDone.st = stDone ∧ inDone.outKind = 0#3 ∧
    request (.event clsCancel 0#16) inDone ≠ some clsAck ∧ request (.event clsCancel 0#16) inDone ≠ some clsReset ∧
    ∃ t, step (fed [] [.event clsCancel 0#16] inDone) = .next t :=
  ⟨(invHolds_iff _).mp (by decide), rfl, rfl, by decide, by decide, _, rfl⟩

/-- The empty payload, and one byte at the capacity 1 with a garbage byte and the checksum 0x7E. -/
theorem witness_FrameOnTheWireGivesItsOutcome :
    (∃ (s : State) (v : List Byte), ReachInv s ∧ s.st = stSync ∧ ([] : List Byte).length ≤ s.cfg.payloadCap.toNat ∧
      s.stream = frameWith 0x02#8 0x22#8 [] 0x24#8 [] ++ v ∧
      s.agenda = List.replicate (7 + 0 + 0) (.event clsByte s.payRaddr) ++ []) ∧
    (∃ (s : State) (v : List Byte), ReachInv s ∧ s.st = stSync ∧ 0x7E#8 ∉ [0x59#8] ∧ 0x7E#8 ∉ [0xBB#8] ∧
      [0x59#8].length ≤ s.cfg.payloadCap.toNat ∧ [0x59#8].length / 256 ≠ 0x7E ∧
      (s.cfg.checkLenLo = true → [0x59#8].length % 256 ≠ 0x7E) ∧
      s.stream = frameWith 0x02#8 0x22#8 [0x59#8] 0x7E#8 [0xBB#8] ++ v ∧
      s.agenda = List.replicate (7 + 1 + 1) (.event clsByte s.payRaddr) ++ []) :=
  ⟨⟨fed [0xBB#8, 0x02#8, 0x22#8, 0x00#8, 0x00#8, 0x24#8, 0x7E#8] (List.replicate 7 (.event clsByte 0#16)) State.reset, [],
    (invHolds_iff _).mp (by decide), rfl, by decide, by decide, by decide⟩,
   ⟨fed [0xBB#8, 0x02#8, 0x22#8, 0x00#8, 0x01#8, 0x59#8, 0x7E#8, 0xBB#8, 0x7E#8, 0xAA#8]
      (List.replicate 9 (.event clsByte 0#16)) { State.reset with cfg := { variant with payloadCap := 1#16 } }, [0xAA#8],
    (invHolds_iff _).mp (by decide), rfl, by decide⟩⟩

theorem witness_AckBeginsTheNextAttempt : inDone.st = 0x8#4 ∧ inTrail.st ≠ 0x8#4 := by decide

theorem witness_CancelEndsTheAttempt : inTrail.st ≤ 0x7#4 ∧ State.reset.st ≤ 0x7#4 ∧ inDone.st = 0x8#4 := by decide

theorem witness_OutcomeKindsHaveTheirCodes :
    (∃ t, exec .trlMatch inTrail = .next t ∧ inTrail.outKind ≠ 7#3 ∧ inTrail.outKind ≠ 5#3 ∧
      inTrail.cfg.payloadCap = 65535#16) ∧
    (∃ t, exec (.lenlCap 0xFF#8) { inLenl with lenR := 0xFF00#16 } = .next t ∧ inLenl.outKind ≠ 5#3) :=
  ⟨⟨_, rfl, by decide, by decide, rfl⟩, ⟨_, rfl, by decide⟩⟩

theorem witness_LengthIsBigEndian : (0x00#8 : Byte).toNat * 256 + (0x00#8 : Byte).toNat = 0 := by decide

/-- In the middle of an attempt, with a byte offered and a cancel at the same edge. -/
theorem witness_ResetHeldHasNoFurtherEffect :
    ∃ (s : State) (p : Pins), s.agenda = .edge p :: .edge p :: [] ∧ p.rst = true ∧ p.cancel = true ∧ s.st = stTrail :=
  ⟨fed [0x7E#8] [.edge ⟨true, true, true, true, 0#16⟩, .edge ⟨true, true, true, true, 0#16⟩] inTrail, _, rfl, rfl, rfl, rfl⟩

/-- An outcome held; a collision in ADDR and, with the check on, in LENL; each before its ACK. -/
theorem witness_ResynchronisesAfterAnOutcome :
    (∃ s : State, s.st = stDone ∧ s.agenda = .event clsAck 0#16 :: []) ∧
    (∃ s : State, s.st = stAddr ∧ s.stream = 0x7E#8 :: [0xBB#8] ∧
      s.agenda = .event clsByte 0#16 :: .event clsAck 0#16 :: []) ∧
    (∃ s : State, (s.st = stLenl ∧ s.cfg.checkLenLo = true) ∧ s.stream = 0x7E#8 :: [] ∧
      s.agenda = .event clsByte 0#16 :: .event clsAck 0#16 :: []) :=
  ⟨⟨fed [] [.event clsAck 0#16] inDone, rfl, rfl⟩,
   ⟨fed [0x7E#8, 0xBB#8] [.event clsByte 0#16, .event clsAck 0#16] inAddr, rfl, rfl, rfl⟩,
   ⟨fed [0x7E#8] [.event clsByte 0#16, .event clsAck 0#16] { inLenl with cfg := variant }, ⟨rfl, rfl⟩, rfl, rfl⟩⟩

/-- In SYNC and in TRAIL, the first and the last decode state. -/
theorem witness_CancelEdgeKeepsTheOfferedByte :
    ∀ s ∈ [State.reset, inTrail], ∃ (t : State) (p : Pins), t = fed [0xBB#8] [.edge p, .event clsAck 0#16] s ∧
      p.rst = false ∧ p.cancel = true ∧ p.inValid = true ∧ t.st ≤ 0x7#4 := by
  intro s hs
  refine ⟨_, ⟨false, true, true, false, 0#16⟩, rfl, rfl, rfl, rfl, ?_⟩
  simp only [List.mem_cons, List.not_mem_nil, or_false] at hs
  rcases hs with rfl | rfl <;> decide

/-- An over-cap length, and the trailer of TRAIL. -/
theorem witness_FinishIsTheOnlyWayIntoDone :
    (∃ t, exec (.lenlCap 0x11#8) { inLenl with cfg := cap16 } = .next t ∧ inLenl.st ≠ stDone ∧ t.st = stDone) ∧
    (∃ t, exec .trlMatch inTrail = .next t ∧ inTrail.st ≠ stDone ∧ t.st = stDone) :=
  ⟨⟨_, rfl, by decide, rfl⟩, ⟨_, rfl, by decide, rfl⟩⟩

/-- A byte and the last class that is not reserved, while an outcome is held. -/
theorem witness_HeldOutcomeStaysUntilAckOrReset :
    inDone.st = stDone ∧
    (request (.event clsByte 0#16) (fed [0xBB#8] [] inDone) = some clsByte ∧ clsByte ≠ clsAck ∧ clsByte ≠ clsReset ∧
      clsByte ≤ 0x6#4) ∧
    (request (.event 0x6#4 0#16) inDone = some 0x6#4 ∧ (0x6#4 : BitVec 4) ≠ clsAck ∧ (0x6#4 : BitVec 4) ≠ clsReset) := by
  decide

theorem witness_AckLeavesTheResetRegisters : inDone.st = stDone ∧ collided.st = stDone := by decide

theorem witness_EachRegisterHasItsWriters :
    (∃ t, exec (.payCap 0x00#8) inPayload = .next t) ∧ (∃ t, exec (.ack 0x1#4) inAddr = .next t) := ⟨⟨_, rfl⟩, ⟨_, rfl⟩⟩

/-- No storage at all, and one entry at the last index. -/
theorem witness_ResetMeetsTheInvariant :
    (Memory.wf [] ∧ ∀ e ∈ ([] : Memory), e.1 < 0) ∧
    (Memory.wf [(0, 0x7E#8), (65534, 0x00#8)] ∧
      ∀ e ∈ ([(0, 0x7E#8), (65534, 0x00#8)] : Memory), e.1 < Params.default.payloadCap.toNat) := by decide

theorem witness_StepKeepsTheInvariant :
    ReachInv (fed [0x00#8] [.event clsByte 0#16] inPayload) ∧
    ∃ t, step (fed [0x00#8] [.event clsByte 0#16] inPayload) = .next t :=
  ⟨(invHolds_iff _).mp (by decide), _, rfl⟩

/-- A state of each clause. -/
theorem witness_InvariantGivesTheReachableStateRule :
    ReachInv State.reset ∧ ReachInv inAddr ∧ ReachInv inLenh ∧ ReachInv inPayload ∧ ReachInv inCsum ∧ ReachInv inDone :=
  ⟨witness_inv_reset, witness_inv_addr, witness_inv_lenh, witness_inv_payload, witness_inv_csum, witness_inv_done⟩

theorem witness_ReachableStatesNeverFault :
    ReachInv (fed [] [.event 0x7#4 0#16] inDone) ∧
    refusalOf (step (fed [] [.event 0x7#4 0#16] inDone)) = some (.reservedClass 0x7#4) :=
  ⟨(invHolds_iff _).mp (by decide), by decide⟩

/-- The index at the capacity, the index just below it, and a reachable state in PAYLOAD. -/
theorem witness_PayCapStopsOnlyOutsideTheBuffer :
    { inPayload with cfg := { cap16 with payloadCap := 1#16 } }.cfg.payloadCap ≤ inPayload.payIdx ∧
    inPayload.payIdx < { inPayload with cfg := { cap16 with payloadCap := 2#16 } }.cfg.payloadCap ∧
    ReachInv inPayload ∧ inPayload.st = stPayload := ⟨by decide, by decide, witness_inv_payload, rfl⟩

theorem witness_StepKeepsTheBufferCanonical :
    Memory.wf inPayload.payBuf ∧ ∃ t, step (fed [0x00#8] [.event clsByte 0#16] inPayload) = .next t :=
  ⟨by decide, _, rfl⟩

theorem witness_ParametersNeverChange :
    ∃ t, step (fed [0x7E#8] [.event clsByte 0#16] { inLenl with cfg := variant }) = .next t := ⟨_, rfl⟩

/-- A broken invariant, and the least reserved `st`. -/
theorem witness_LaunchNeedsTheInvariant :
    ¬ ReachInv { State.reset with normal := true } ∧ (0x9#4 : BitVec 4) ≤ { State.reset with st := 0x9#4 }.st :=
  ⟨fun h => absurd ((invHolds_iff _).mpr h) (by decide), by decide⟩

end Sys2Proof.Tests
end

/-! PROOFS of the statements about one step (00_scope): a step runs the decoded instruction, it keeps the parameters, and its
stale parts reach no outcome. -/

namespace Sys2Proof.Machine

/-! ## What a step does, by the request of the next move (R6, R44, R67) -/

/-- What the FSV does with an event of class `c` in the state the move leaves. -/
def runEvent (c : BitVec 4) (s : State) : Host.Outcome State Fault Refusal :=
  match decode s.cfg (stepKey c s) with
  | .ok i => exec i (admitByte c s)
  | .error .noStepInDone => .next s
  | .error (.reservedState q) => .refused (.reservedState q)
  | .error (.reservedClass d) => .refused (.reservedClass d)

theorem runEvent_of_decoded {c : BitVec 4} {s : State} {i : Instr} (hd : decode s.cfg (stepKey c s) = .ok i) :
    runEvent c s = exec i (admitByte c s) := by
  simp [runEvent, hd]

theorem step_of_no_move {s : State} (ha : s.agenda = []) : step s = .next s := by
  simp [step, choose, ha]

theorem step_of_no_request {s : State} {m : Stimulus} {rest : List Stimulus} (ha : s.agenda = m :: rest)
    (hr : request m (present m { s with agenda := rest }) = none) :
    step s = .next (present m { s with agenda := rest }) := by
  simp [step, choose, ha, hr]

theorem step_of_request {s : State} {m : Stimulus} {rest : List Stimulus} {c : BitVec 4} (ha : s.agenda = m :: rest)
    (hr : request m (present m { s with agenda := rest }) = some c) :
    step s = runEvent c (present m { s with agenda := rest }) := by
  simp only [step, choose, ha, hr, chooseEvent, runEvent]
  cases decode (present m { s with agenda := rest }).cfg (stepKey c (present m { s with agenda := rest })) with
  | ok i => rfl
  | error e => cases e <;> rfl

/-- Settles O6: the step key of the statement is `stepKey`, and the state it runs on is `admitByte`'s. -/
theorem stepRunsTheDecodedInstruction : Obligations.StepRunsTheDecodedInstruction := by
  unfold Obligations.StepRunsTheDecodedInstruction
  intro s u m rest c i ha hu hr hd
  subst hu
  rw [step_of_request ha hr]
  exact runEvent_of_decoded hd

/-! ## PAY_CAP and LENL_CAP: the operations that branch on the parameters -/

/-- What PAY_CAP does where the buffer has the index (R111). -/
def collectByte (b : Byte) (s : State) : State :=
  advancePayload (accumulate b { s with payBuf := Memory.set s.payIdx.toNat b s.payBuf })

theorem exec_payCap_cases (b : Byte) (s : State) :
    (s.payIdx < s.cfg.payloadCap ∧ exec (.payCap b) s = .next (collectByte b s)) ∨
    (¬ s.payIdx < s.cfg.payloadCap ∧ exec (.payCap b) s = .fault (.payloadIndexOutOfRange s.payIdx)) :=
  execPayCap_cases b s

theorem collectByte_of_exec {b : Byte} {s t : State} (h : exec (.payCap b) s = .next t) : t = collectByte b s := by
  rcases exec_payCap_cases b s with ⟨-, e⟩ | ⟨-, e⟩
  · exact Host.Outcome.next.inj (h.symm.trans e)
  · cases h.symm.trans e

@[simp] theorem advancePayload_cfg (s : State) : (advancePayload s).cfg = s.cfg := by
  unfold advancePayload; split <;> rfl

@[simp] theorem advancePayload_payIdx (s : State) : (advancePayload s).payIdx = s.payIdx + 1#16 := by
  unfold advancePayload; split <;> rfl

@[simp] theorem advancePayload_payBuf (s : State) : (advancePayload s).payBuf = s.payBuf := by
  unfold advancePayload; split <;> rfl

@[simp] theorem advancePayload_syncSkipped (s : State) : (advancePayload s).syncSkipped = s.syncSkipped := by
  unfold advancePayload; split <;> rfl

theorem advancePayload_st (s : State) : (advancePayload s).st = stCsum ∨ (advancePayload s).st = s.st := by
  rcases advancePayload_cases s with ⟨-, e⟩ | ⟨-, e⟩ <;> simp [e]

@[simp] theorem collectByte_cfg (b : Byte) (s : State) : (collectByte b s).cfg = s.cfg := by simp [collectByte]

@[simp] theorem collectByte_payIdx (b : Byte) (s : State) : (collectByte b s).payIdx = s.payIdx + 1#16 := by
  simp [collectByte]

@[simp] theorem collectByte_payBuf (b : Byte) (s : State) :
    (collectByte b s).payBuf = Memory.set s.payIdx.toNat b s.payBuf := by simp [collectByte]

@[simp] theorem collectByte_syncSkipped (b : Byte) (s : State) : (collectByte b s).syncSkipped = s.syncSkipped := by
  simp [collectByte]

theorem collectByte_st (b : Byte) (s : State) : (collectByte b s).st = stCsum ∨ (collectByte b s).st = s.st :=
  advancePayload_st _

theorem memRead_collectByte_same {s : State} (h : s.payIdx < s.cfg.payloadCap) (b : Byte) :
    memRead s.payIdx (collectByte b s) = b := by
  simp [memRead, h, bufferByte_set_same]

theorem memRead_collectByte_other {s : State} {a : BitVec 16} (h : a ≠ s.payIdx) (b : Byte) :
    memRead a (collectByte b s) = memRead a s := by
  have hn : a.toNat ≠ s.payIdx.toNat := fun e => h (BitVec.eq_of_toNat_eq e)
  simp [memRead, bufferByte_set_other hn]

@[simp] theorem routeLength_cfg (s : State) : (routeLength s).cfg = s.cfg := by
  rcases routeLength_cases s with ⟨-, e⟩ | ⟨-, -, e⟩ | ⟨-, -, e⟩ <;> simp [e]

/-! ## The parameters (R9, R182) -/

theorem exec_cfg {i : Instr} {s t : State} (h : exec i s = .next t) : t.cfg = s.cfg := by
  cases i with
  | lenlCap b => cases h; simp
  | payCap b => simp [collectByte_of_exec h]
  | ack q => cases h; split <;> rfl
  | cancel q => cases h; split <;> rfl
  | _ => cases h; rfl

@[simp] theorem admitByte_st (c : BitVec 4) (s : State) : (admitByte c s).st = s.st := by
  unfold admitByte; split <;> rfl

@[simp] theorem admitByte_cfg (c : BitVec 4) (s : State) : (admitByte c s).cfg = s.cfg := by
  unfold admitByte; split <;> rfl

/-- Settles O56: neither a move of the environment nor an operation writes the parameters. -/
theorem parametersNeverChange : Obligations.ParametersNeverChange := by
  unfold Obligations.ParametersNeverChange
  intro s t h
  rcases step_cases h with ⟨-, rfl⟩ | ⟨m, rest, u, -, rfl, ⟨-, rfl⟩ | ⟨c, -, -, rfl⟩ | ⟨c, i, -, -, he⟩⟩
  · rfl
  · simp
  · simp
  · simpa using exec_cfg he

/-! ## States that differ in their stale parts only (R7, R35, R82, R112) -/

/-- The state with the payload buffer, the skip count, the ghost counter and the last sample wiped out: what two states that
differ only in these have in common. -/
def clearStale (s : State) : State :=
  { s with payBuf := [], syncSkipped := 0x00000000#32, consumed := 0, sampled := none }

theorem clearStale_eq_iff {s u : State} : clearStale u = clearStale s ↔
    u = { s with payBuf := u.payBuf, syncSkipped := u.syncSkipped, consumed := u.consumed, sampled := u.sampled } := by
  constructor
  · intro h
    cases s; cases u
    simpa [clearStale] using h
  · intro h
    rw [h]
    rfl

/-- What does not read the stale parts is equal in two states that differ in these only. -/
theorem eq_of_clearStale_eq {α : Type} {s u : State} (h : clearStale u = clearStale s) (f : State → α)
    (hf : ∀ w, f w = f (clearStale w)) : f u = f s := by
  rw [hf u, h, ← hf s]

/-- The two buffers agree below `pay_idx` of the first state. -/
def CollectedAgree (s u : State) : Prop := ∀ a, a < s.payIdx → memRead a u = memRead a s

/-- From the pair `s`, `u` to the pair `t`, `v`: the later two differ in their stale parts only, and agreement of the skip counts
and of the collected bytes is carried over. -/
structure StaleKept (s u t v : State) : Prop where
  same : clearStale v = clearStale t
  skipped : u.syncSkipped = s.syncSkipped → v.syncSkipped = t.syncSkipped
  collected : CollectedAgree s u → CollectedAgree t v

theorem StaleKept.trans {s u s' u' t v : State} (h : StaleKept s u s' u') (k : StaleKept s' u' t v) : StaleKept s u t v :=
  ⟨k.same, k.skipped ∘ h.skipped, k.collected ∘ h.collected⟩

/-- Two outcomes of one kind: next states related by `StaleKept`, or the same stop. -/
inductive OutcomesAlike (s u : State) : Host.Outcome State Fault Refusal → Host.Outcome State Fault Refusal → Prop
  | next {t v : State} (h : StaleKept s u t v) : OutcomesAlike s u (.next t) (.next v)
  | fault (r : Fault) : OutcomesAlike s u (.fault r) (.fault r)
  | refused (r : Refusal) : OutcomesAlike s u (.refused r) (.refused r)

theorem OutcomesAlike.after {s u s' u' : State} {o p : Host.Outcome State Fault Refusal} (h : StaleKept s u s' u')
    (k : OutcomesAlike s' u' o p) : OutcomesAlike s u o p := by
  cases k with
  | next k => exact .next (h.trans k)
  | fault r => exact .fault r
  | refused r => exact .refused r

theorem OutcomesAlike.next_left {s u t : State} {p : Host.Outcome State Fault Refusal}
    (h : OutcomesAlike s u (.next t) p) : ∃ v, p = .next v ∧ StaleKept s u t v := by
  cases h with
  | next h => exact ⟨_, rfl, h⟩

theorem OutcomesAlike.fault_left {s u : State} {r : Fault} {p : Host.Outcome State Fault Refusal}
    (h : OutcomesAlike s u (.fault r) p) : p = .fault r := by
  cases h
  rfl

theorem OutcomesAlike.refused_left {s u : State} {r : Refusal} {p : Host.Outcome State Fault Refusal}
    (h : OutcomesAlike s u (.refused r) p) : p = .refused r := by
  cases h
  rfl

section
variable {s u : State} (h : clearStale u = clearStale s)
include h

/-! ### The parts of an operation -/

theorem enter_staleKept (q : BitVec 4) : StaleKept s u (enter q s) (enter q u) := ⟨congrArg (enter q) h, id, id⟩

theorem finish_staleKept (k : OutcomeKind) : StaleKept s u (finish k s) (finish k u) := ⟨congrArg (finish k) h, id, id⟩

/-- No payload byte is collected after BeginAttempt, so the buffers need not agree at all. -/
theorem beginAttempt_staleKept : StaleKept s u (beginAttempt s) (beginAttempt u) :=
  ⟨congrArg beginAttempt h, fun _ => rfl, fun _ _ ha => absurd ha BitVec.not_lt_zero⟩

theorem resetState_staleKept : StaleKept s u (resetState s) (resetState u) :=
  ⟨congrArg resetState h, fun _ => rfl, fun _ _ ha => absurd ha BitVec.not_lt_zero⟩

/-- The two samples may differ: a read of the payload buffer can return a stale byte. -/
theorem record_staleKept (x y : Sample) : StaleKept s u (record x s) (record y u) := ⟨h, id, id⟩

theorem skip_staleKept :
    StaleKept s u { s with syncSkipped := sat32Inc s.syncSkipped } { u with syncSkipped := sat32Inc u.syncSkipped } :=
  ⟨h, congrArg sat32Inc, id⟩

theorem routeLength_staleKept : StaleKept s u (routeLength s) (routeLength u) := by
  have hl : u.lenR = s.lenR := eq_of_clearStale_eq h State.lenR (fun _ => rfl)
  have hc : u.cfg = s.cfg := eq_of_clearStale_eq h State.cfg (fun _ => rfl)
  simp only [routeLength, hl, hc]
  split
  · exact finish_staleKept h _
  · split
    · exact enter_staleKept h _
    · exact enter_staleKept h _

theorem collectByte_collectedAgree (hs : s.payIdx < s.cfg.payloadCap) (b : Byte) (hb : CollectedAgree s u) :
    CollectedAgree (collectByte b s) (collectByte b u) := by
  have hi : u.payIdx = s.payIdx := eq_of_clearStale_eq h State.payIdx (fun _ => rfl)
  have hc : u.cfg = s.cfg := eq_of_clearStale_eq h State.cfg (fun _ => rfl)
  intro a ha
  by_cases e : a = u.payIdx
  · have hu : u.payIdx < u.cfg.payloadCap := by rw [hi, hc]; exact hs
    rw [e, memRead_collectByte_same hu, hi, memRead_collectByte_same hs]
  · have lt : a < s.payIdx := by
      rw [hi] at e
      rw [collectByte_payIdx] at ha
      bv_omega
    rw [memRead_collectByte_other e, memRead_collectByte_other (hi ▸ e)]
    exact hb a lt

theorem clearStale_collectByte (b : Byte) : clearStale (collectByte b u) = clearStale (collectByte b s) := by
  have comm (w : State) : clearStale (collectByte b w) = advancePayload (accumulate b (clearStale w)) := by
    unfold collectByte advancePayload
    rw [apply_ite clearStale]
    rfl
  rw [comm, comm, h]

theorem exec_payCap_alike (b : Byte) : OutcomesAlike s u (exec (.payCap b) s) (exec (.payCap b) u) := by
  have hi : u.payIdx = s.payIdx := eq_of_clearStale_eq h State.payIdx (fun _ => rfl)
  have hc : u.cfg = s.cfg := eq_of_clearStale_eq h State.cfg (fun _ => rfl)
  have hu := exec_payCap_cases b u
  rw [hi, hc] at hu
  rcases exec_payCap_cases b s with ⟨lt, es⟩ | ⟨ge, es⟩
  · obtain ⟨-, eu⟩ := hu.resolve_right (fun k => k.1 lt)
    rw [es, eu]
    exact .next ⟨clearStale_collectByte h b, by simp, collectByte_collectedAgree h lt b⟩
  · obtain ⟨-, eu⟩ := hu.resolve_left (fun k => ge k.1)
    rw [es, eu]
    exact .fault _

/-! ### Operations, events, steps -/

/-- An operation does alike in two states that differ in their stale parts only. -/
theorem exec_alike (i : Instr) : OutcomesAlike s u (exec i s) (exec i u) := by
  have hst : u.st = s.st := eq_of_clearStale_eq h State.st (fun _ => rfl)
  cases i with
  | hdrMatch => exact .next (enter_staleKept h _)
  | hdrSkip b => exact .next (skip_staleKept h)
  | addrTrl => exact .next (finish_staleKept h _)
  | addrCap b => exact .next ⟨congrArg (fun w : State => enter stCmd (accumulate b { w with addrR := b })) h, id, id⟩
  | cmdTrl => exact .next (finish_staleKept h _)
  | cmdCap b => exact .next ⟨congrArg (fun w : State => enter stLenh (accumulate b { w with cmdR := b })) h, id, id⟩
  | lenhTrl => exact .next (finish_staleKept h _)
  | lenhCap b =>
    exact .next ⟨congrArg (fun w : State => enter stLenl (accumulate b { w with lenR := withLenHigh w.lenR b })) h, id, id⟩
  | lenlTrl => exact .next (finish_staleKept h _)
  | lenlCap b =>
    have hl : StaleKept s u (accumulate b { s with lenR := withLenLow s.lenR b })
        (accumulate b { u with lenR := withLenLow u.lenR b }) :=
      ⟨congrArg (fun w : State => accumulate b { w with lenR := withLenLow w.lenR b }) h, id, id⟩
    exact .next (hl.trans (routeLength_staleKept hl.same))
  | payTrl => exact .next (finish_staleKept h _)
  | payCap b => exact exec_payCap_alike h b
  | csCap b => exact .next ⟨congrArg (fun w : State => enter stTrail (setNormal true { w with csRx := b })) h, id, id⟩
  | trlMatch => exact .next ⟨congrArg (fun w : State => finish (validate w) w) h, id, id⟩
  | trlSkip b => exact .next ⟨congrArg (setNormal false) h, id, id⟩
  | ack q =>
    simp only [exec, execAck, hst]
    split
    · exact .next (beginAttempt_staleKept h)
    · exact .next ⟨h, id, id⟩
  | cancel q =>
    simp only [exec, execCancel, hst]
    split
    · exact .next (finish_staleKept h _)
    · exact .next ⟨h, id, id⟩
  | reset q => exact .next (resetState_staleKept h)
  | outRead q => exact .next (record_staleKept h _ _)
  | payRead q => exact .next (record_staleKept h _ _)
  | dbgRead q => exact .next (record_staleKept h _ _)

theorem admitByte_staleKept (c : BitVec 4) : StaleKept s u (admitByte c s) (admitByte c u) := by
  unfold admitByte
  split
  · exact ⟨congrArg (fun w : State => { w with stream := w.stream.tail }) h, id, id⟩
  · exact ⟨h, id, id⟩

theorem present_staleKept (m : Stimulus) (rest : List Stimulus) :
    StaleKept s u (present m { s with agenda := rest }) (present m { u with agenda := rest }) := by
  have hp := congrArg (fun w : State => present m { w with agenda := rest }) h
  cases m with
  | offer b => exact ⟨hp, id, id⟩
  | event c i => exact ⟨hp, id, id⟩
  | edge p => exact ⟨hp, id, id⟩

theorem request_congr (m : Stimulus) : request m u = request m s :=
  eq_of_clearStale_eq h (request m) (fun _ => by cases m <;> rfl)

theorem runEvent_alike (c : BitVec 4) : OutcomesAlike s u (runEvent c s) (runEvent c u) := by
  have hd : decode u.cfg (stepKey c u) = decode s.cfg (stepKey c s) :=
    eq_of_clearStale_eq h (fun w => decode w.cfg (stepKey c w)) (fun _ => rfl)
  simp only [runEvent, hd]
  cases decode s.cfg (stepKey c s) with
  | ok i => exact (exec_alike (admitByte_staleKept h c).same i).after (admitByte_staleKept h c)
  | error e =>
    cases e with
    | noStepInDone => exact .next ⟨h, id, id⟩
    | reservedState q => exact .refused _
    | reservedClass d => exact .refused _

/-- A step does alike in two states that differ in their stale parts only. -/
theorem step_alike : OutcomesAlike s u (step s) (step u) := by
  have hag : u.agenda = s.agenda := eq_of_clearStale_eq h State.agenda (fun _ => rfl)
  cases ha : s.agenda with
  | nil =>
    rw [step_of_no_move ha, step_of_no_move (hag.trans ha)]
    exact .next ⟨h, id, id⟩
  | cons m rest =>
    have hp := present_staleKept h m rest
    have hr := request_congr hp.same m
    cases hs : request m (present m { s with agenda := rest }) with
    | none =>
      rw [step_of_no_request ha hs, step_of_no_request (hag.trans ha) (hr.trans hs)]
      exact .next hp
    | some c =>
      rw [step_of_request ha hs, step_of_request (hag.trans ha) (hr.trans hs)]
      exact .after hp (runEvent_alike hp.same c)

end

/-! ## An OK outcome has its whole payload collected (R112, R122) -/

/-- The whole payload is collected where the trailer may come and where an OK outcome is held. -/
def PayloadComplete (s : State) : Prop :=
  s.st = stTrail ∨ (s.st = stDone ∧ s.outKind = OutcomeKind.code .ok) → s.payIdx = s.lenR

theorem ReachInv.outStage_of_ok {s : State} (h : ReachInv s) (hd : s.st = stDone)
    (hk : s.outKind = OutcomeKind.code .ok) : s.outStage = stTrail := by
  rcases h.codes hd with ⟨k, -⟩ | ⟨k, -⟩ | ⟨-, e⟩ | ⟨k, -⟩
  · cases hk.symm.trans k
  · cases hk.symm.trans k
  · exact e
  · cases hk.symm.trans k

theorem Shape.payIdx_of_trail {q : BitVec 4} {s : State} (h : Shape q s) (hq : q = stTrail) : s.payIdx = s.lenR := by
  obtain ⟨-, -, -, -, -, -, hp, -⟩ := h
  exact (hp (.inr hq)).1

theorem ReachInv.payloadComplete {s : State} (h : ReachInv s) : PayloadComplete s := by
  rintro (hq | ⟨hd, hk⟩)
  · have hle : s.st ≤ stTrail := hq ▸ BitVec.le_refl _
    obtain ⟨shape, -, -⟩ := h.attempt hle
    exact shape.payIdx_of_trail hq
  · have hf := h.fields hd
    rw [if_neg (by rw [hk]; decide)] at hf
    exact Shape.payIdx_of_trail hf (h.outStage_of_ok hd hk)

theorem decodeByte_stateField {cfg : Params} {q : BitVec 4} {b : Byte} {i : Instr} (h : decodeByte cfg q b = .ok i) :
    i.stateField = q := by
  unfold decodeByte at h
  split_ifs at h <;> cases h <;> exact Eq.symm (by assumption)

/-- The decoder gives an instruction of the state it reads. -/
theorem decodeFields_stateField {cfg : Params} {c q : BitVec 4} {b : Byte} {i : Instr}
    (h : decodeFields cfg c q b = .ok i) : i.stateField = q := by
  unfold decodeFields at h
  split at h
  · exact decodeByte_stateField h
  · split_ifs at h <;> cases h <;> rfl

theorem stateField_of_decoded {c : BitVec 4} {s : State} {i : Instr} (h : decode s.cfg (stepKey c s) = .ok i) :
    i.stateField = s.st := by
  rw [stepKey, decode_key] at h
  exact decodeFields_stateField h

theorem routeLength_not_ok {s : State} (hd : (routeLength s).st = stDone) :
    (routeLength s).outKind ≠ OutcomeKind.code .ok := by
  rcases routeLength_cases s with ⟨-, e⟩ | ⟨-, -, e⟩ | ⟨-, -, e⟩ <;> rw [e] at hd ⊢
  · exact fun hk => by cases hk
  · cases hd
  · cases hd

/-- Only TRL_MATCH decides an outcome as OK, and it runs in TRAIL. -/
theorem exec_ok_complete {i : Instr} {s t : State} (hs : PayloadComplete s) (hq : i.stateField = s.st)
    (h : exec i s = .next t) (hd : t.st = stDone) (hk : t.outKind = OutcomeKind.code .ok) : t.payIdx = t.lenR := by
  cases i with
  | hdrMatch => cases h; cases hd
  | hdrSkip b => cases h; cases hq.trans hd
  | addrTrl => cases h; cases hk
  | addrCap b => cases h; cases hd
  | cmdTrl => cases h; cases hk
  | cmdCap b => cases h; cases hd
  | lenhTrl => cases h; cases hk
  | lenhCap b => cases h; cases hd
  | lenlTrl => cases h; cases hk
  | lenlCap b => cases h; exact absurd hk (routeLength_not_ok hd)
  | payTrl => cases h; cases hk
  | payCap b =>
    rw [collectByte_of_exec h] at hd
    rcases collectByte_st b s with e | e
    · cases e.symm.trans hd
    · cases hq.trans (e.symm.trans hd)
  | csCap b => cases h; cases hd
  | trlMatch => cases h; exact hs (.inl hq.symm)
  | trlSkip b => cases h; cases hq.trans hd
  | ack q =>
    cases h
    by_cases e : s.st = stDone
    · rw [if_pos e] at hd; cases hd
    · rw [if_neg e] at hd; exact absurd hd e
  | cancel q =>
    cases h
    by_cases e : s.st ≤ stTrail
    · rw [if_pos e] at hk; cases hk
    · rw [if_neg e] at hd hk ⊢; exact hs (.inr ⟨hd, hk⟩)
  | reset q => cases h; cases hd
  | outRead q => cases h; exact hs (.inr ⟨hd, hk⟩)
  | payRead q => cases h; exact hs (.inr ⟨hd, hk⟩)
  | dbgRead q => cases h; exact hs (.inr ⟨hd, hk⟩)

theorem PayloadComplete.present {s : State} (h : PayloadComplete s) (m : Stimulus) (rest : List Stimulus) :
    PayloadComplete (present m { s with agenda := rest }) := by
  cases m with
  | offer b => exact h
  | event c i => exact h
  | edge p => exact h

theorem PayloadComplete.admitByte {s : State} (h : PayloadComplete s) (c : BitVec 4) :
    PayloadComplete (admitByte c s) := by
  unfold Machine.admitByte
  split
  · exact h
  · exact h

theorem step_ok_complete {s t : State} (hs : PayloadComplete s) (h : step s = .next t) (hd : t.st = stDone)
    (hk : t.outKind = OutcomeKind.code .ok) : t.payIdx = t.lenR := by
  rcases step_cases h with ⟨-, rfl⟩ | ⟨m, rest, u, -, rfl, hu⟩
  · exact hs (.inr ⟨hd, hk⟩)
  · have hp := hs.present m rest
    rcases hu with ⟨-, rfl⟩ | ⟨c, -, -, rfl⟩ | ⟨c, i, -, hi, he⟩
    · exact hp (.inr ⟨hd, hk⟩)
    · exact hp (.inr ⟨hd, hk⟩)
    · exact exec_ok_complete (hp.admitByte c) ((stateField_of_decoded hi).trans (admitByte_st c _).symm) he hd hk

/-! ## The outcome presented -/

theorem payloadBytes_congr {t v : State} (hl : v.lenR = t.lenR) (hp : t.payIdx = t.lenR) (hb : CollectedAgree t v) :
    payloadBytes v = payloadBytes t := by
  unfold payloadBytes
  rw [hl]
  refine List.map_congr_left fun i hi => hb _ ?_
  have hi' : i < t.lenR.toNat := List.mem_range.mp hi
  rw [hp, BitVec.lt_def, BitVec.toNat_ofNat]
  exact (Nat.mod_le _ _).trans_lt hi'

/-- The stale parts reach the outcome ports by the skip count alone, and the frame by the collected bytes alone. -/
theorem presented_congr {t v : State} (h : clearStale v = clearStale t) (hk : v.syncSkipped = t.syncSkipped)
    (hb : t.st = stDone → t.outKind = OutcomeKind.code .ok → payloadBytes v = payloadBytes t) :
    presented v = presented t := by
  have ports : outPorts v = outPorts t := by
    rw [clearStale_eq_iff.mp h, hk]
    rfl
  have fields : (v.st, v.outKind, v.addrR, v.cmdR, v.lenR, v.csRx) = (t.st, t.outKind, t.addrR, t.cmdR, t.lenR, t.csRx) :=
    eq_of_clearStale_eq h (fun w => (w.st, w.outKind, w.addrR, w.cmdR, w.lenR, w.csRx)) (fun _ => rfl)
  have hframe : frameOf v = frameOf t := by
    simp only [Prod.mk.injEq] at fields
    obtain ⟨e1, e2, e3, e4, e5, e6⟩ := fields
    simp only [frameOf, e1, e2, e3, e4, e5, e6]
    split
    · next hok => rw [hb hok.1 hok.2]
    · rfl
  rw [presented, presented, ports, hframe]

/-- Settles O15: `step_alike` for the next state and the stops; what is presented then differs nowhere, since an OK outcome has
its whole payload collected. -/
theorem staleBytesNeverReachAnOutcome : Obligations.StaleBytesNeverReachAnOutcome := by
  unfold Obligations.StaleBytesNeverReachAnOutcome
  intro s u hu
  have alike := step_alike (clearStale_eq_iff.mpr hu)
  refine ⟨fun t ht => ?_, fun r hr => ?_, fun r hr => ?_⟩
  · rw [ht] at alike
    obtain ⟨v, hv, kept⟩ := alike.next_left
    refine ⟨v, hv, clearStale_eq_iff.mp kept.same, kept.skipped, kept.collected, fun inv hk hb => ?_⟩
    have hl : v.lenR = t.lenR := eq_of_clearStale_eq kept.same State.lenR (fun _ => rfl)
    refine presented_congr kept.same (kept.skipped hk) fun hd hok => ?_
    exact payloadBytes_congr hl (step_ok_complete inv.payloadComplete ht hd hok) (kept.collected hb)
  · rw [hr] at alike
    exact alike.fault_left
  · rw [hr] at alike
    exact alike.refused_left

end Sys2Proof.Machine

/-! PROOFS of the statements about the state (10_state): which operations write each register, and the invariant of reachable
states, which every step keeps. -/

namespace Sys2Proof.Machine

/-! ## The slices of the length register (R24) -/

theorem lenHigh_toNat (v : BitVec 16) : (lenHigh v).toNat = v.toNat / 256 := by
  have := v.isLt
  simp [lenHigh, Nat.shiftRight_eq_div_pow]
  omega

theorem lenLow_toNat (v : BitVec 16) : (lenLow v).toNat = v.toNat % 256 := by simp [lenLow]

theorem lenHigh_append (x y : Byte) : lenHigh (x ++ y) = x := BitVec.extractLsb'_append_eq_left

theorem lenLow_append (x y : Byte) : lenLow (x ++ y) = y := BitVec.extractLsb'_append_eq_right

@[simp] theorem lenHigh_withLenHigh (v : BitVec 16) (b : Byte) : lenHigh (withLenHigh v b) = b := lenHigh_append _ _

@[simp] theorem lenLow_withLenHigh (v : BitVec 16) (b : Byte) : lenLow (withLenHigh v b) = lenLow v := lenLow_append _ _

@[simp] theorem lenHigh_withLenLow (v : BitVec 16) (b : Byte) : lenHigh (withLenLow v b) = lenHigh v := lenHigh_append _ _

@[simp] theorem lenLow_withLenLow (v : BitVec 16) (b : Byte) : lenLow (withLenLow v b) = b := lenLow_append _ _

@[simp] theorem lenHigh_zero : lenHigh 0x0000#16 = 0x00#8 := by decide

@[simp] theorem lenLow_zero : lenLow 0x0000#16 = 0x00#8 := by decide

/-! ## The registers an operation writes (R20 to R32, R36) -/

/-- The length's route writes the state, and the outcome registers only on the way into DONE. -/
theorem routeLength_writes (s : State) : ∃ q k g, routeLength s = { s with st := q, outKind := k, outStage := g } ∧
    (q = stDone ∨ (k = s.outKind ∧ g = s.outStage)) := by
  rcases routeLength_cases s with ⟨-, e⟩ | ⟨-, -, e⟩ | ⟨-, -, e⟩
  · exact ⟨_, _, _, e, .inl rfl⟩
  · exact ⟨_, _, _, e, .inr ⟨rfl, rfl⟩⟩
  · exact ⟨_, _, _, e, .inr ⟨rfl, rfl⟩⟩

theorem collectByte_eq (b : Byte) (s : State) : collectByte b s =
    { s with
      payBuf := Memory.set s.payIdx.toNat b s.payBuf
      csAcc := s.csAcc + b
      payIdx := s.payIdx + 1#16
      st := if s.payIdx + 1#16 = s.lenR then stCsum else s.st } := by
  by_cases e : s.payIdx + 1#16 = s.lenR <;> simp [collectByte, advancePayload, e, enter, accumulate]

theorem collectByte_st_or_complete (b : Byte) (s : State) : (collectByte b s).st = s.st ∨
    ((collectByte b s).st = stCsum ∧ (collectByte b s).payIdx = (collectByte b s).lenR) := by
  by_cases e : s.payIdx + 1#16 = s.lenR
  · exact .inr (by simp [collectByte_eq, e])
  · exact .inl (by simp [collectByte_eq, e])

/-- Settles O46: PAY_CAP, LENL_CAP, ACK and CANCEL branch; each other operation is one record update. -/
theorem eachRegisterHasItsWriters : Obligations.EachRegisterHasItsWriters := by
  unfold Obligations.EachRegisterHasItsWriters
  intro i s t h
  cases i with
  | lenhCap b => cases h; simp [← lenLow_toNat]
  | lenlCap b =>
    cases h
    obtain ⟨q, k, g, e, hq⟩ := routeLength_writes (accumulate b { s with lenR := withLenLow s.lenR b })
    rw [e]
    simp only [accumulate_outKind, accumulate_outStage] at hq
    simp [hq, ← lenHigh_toNat]
  | payCap b =>
    obtain rfl := collectByte_of_exec h
    refine ⟨collectByte_st_or_complete b s, trivial, fun a ha => memRead_collectByte_other ha b, ?_⟩
    simp [collectByte_eq]
  | ack q =>
    cases h
    by_cases hd : s.st = stDone <;> simp [hd]
  | cancel q =>
    cases h
    by_cases hd : s.st ≤ stTrail <;> simp [hd]
  | _ => cases h; simp

/-- Every operation but PAY_CAP leaves the payload buffer (R28). -/
theorem exec_payBuf {i : Instr} {s t : State} (hi : ∀ b, i ≠ .payCap b) (h : exec i s = .next t) :
    t.payBuf = s.payBuf := by
  obtain ⟨-, -, buffer, -⟩ := eachRegisterHasItsWriters i s t h
  cases i with
  | payCap b => exact absurd rfl (hi b)
  | _ => exact buffer

theorem exec_memRead_other {i : Instr} {s t : State} {a : BitVec 16} (h : exec i s = .next t)
    (ha : (∃ b, i = .payCap b) → a ≠ s.payIdx) : memRead a t = memRead a s := by
  by_cases hi : ∃ b, i = .payCap b
  · obtain ⟨b, rfl⟩ := hi
    rw [collectByte_of_exec h]
    exact memRead_collectByte_other (ha ⟨b, rfl⟩) b
  · exact memRead_congr (exec_cfg h) (exec_payBuf (not_exists.mp hi) h) a

/-- Settles O25: the buffer as a reader sees it changes at PAY_CAP's index alone. -/
theorem payloadBufferIsWrittenByPayCapOnly : Obligations.PayloadBufferIsWrittenByPayCapOnly := by
  unfold Obligations.PayloadBufferIsWrittenByPayCapOnly
  refine ⟨fun i s t a h ha => exec_memRead_other h ha, fun b s hs => ?_, fun a ha => ?_⟩
  · obtain ⟨-, e⟩ := (exec_payCap_cases b s).resolve_right fun k => k.1 hs
    exact ⟨_, e, memRead_collectByte_same hs b⟩
  · rw [memRead_backed ha]
    rfl

/-! ## The canonical form of the buffer (log entry 1) -/

theorem exec_keeps_wf {i : Instr} {s t : State} (hw : Memory.wf s.payBuf) (h : exec i s = .next t) :
    Memory.wf t.payBuf := by
  by_cases hi : ∃ b, i = .payCap b
  · obtain ⟨b, rfl⟩ := hi
    rw [collectByte_of_exec h, collectByte_payBuf]
    exact Memory.set_wf _ _ hw
  · rw [exec_payBuf (not_exists.mp hi) h]
    exact hw

@[simp] theorem admitByte_payBuf (c : BitVec 4) (s : State) : (admitByte c s).payBuf = s.payBuf := by
  unfold admitByte; split <;> rfl

/-- Settles O55: PAY_CAP's write keeps the form, and nothing else writes the buffer. -/
theorem stepKeepsTheBufferCanonical : Obligations.StepKeepsTheBufferCanonical := by
  unfold Obligations.StepKeepsTheBufferCanonical
  intro s t hw h
  rcases step_cases h with ⟨-, rfl⟩ | ⟨m, rest, u, -, rfl, ⟨-, rfl⟩ | ⟨c, -, -, rfl⟩ | ⟨c, i, -, -, he⟩⟩
  · exact hw
  · simpa using hw
  · simpa using hw
  · exact exec_keeps_wf (by simpa using hw) he

/-! ## What the registers hold in each state (R22 to R29) -/

section
variable (s : State)

theorem shape_sync_iff : Shape stSync s ↔ s.addrR = 0x00#8 ∧ s.cmdR = 0x00#8 ∧ s.lenR = 0x0000#16 ∧
    s.payIdx = 0x0000#16 ∧ s.csRx = 0x00#8 ∧ s.normal = false := by
  simp [Shape, stSync, stAddr, stCmd, stLenh, stLenl, stPayload, stCsum, stTrail]

theorem shape_addr_iff : Shape stAddr s ↔ s.addrR = 0x00#8 ∧ s.cmdR = 0x00#8 ∧ s.lenR = 0x0000#16 ∧
    s.payIdx = 0x0000#16 ∧ s.csRx = 0x00#8 ∧ s.normal = false := by
  simp [Shape, stAddr, stCmd, stLenh, stLenl, stPayload, stCsum, stTrail]

theorem shape_cmd_iff : Shape stCmd s ↔ s.cmdR = 0x00#8 ∧ s.lenR = 0x0000#16 ∧ s.payIdx = 0x0000#16 ∧
    s.csRx = 0x00#8 ∧ s.normal = false := by
  simp [Shape, stAddr, stCmd, stLenh, stLenl, stPayload, stCsum, stTrail]

theorem shape_lenh_iff : Shape stLenh s ↔
    s.lenR = 0x0000#16 ∧ s.payIdx = 0x0000#16 ∧ s.csRx = 0x00#8 ∧ s.normal = false := by
  simp [Shape, stAddr, stCmd, stLenh, stLenl, stPayload, stCsum, stTrail]

theorem shape_lenl_iff : Shape stLenl s ↔
    lenLow s.lenR = 0x00#8 ∧ s.payIdx = 0x0000#16 ∧ s.csRx = 0x00#8 ∧ s.normal = false := by
  simp [Shape, stAddr, stCmd, stLenh, stLenl, stPayload, stCsum, stTrail]

theorem shape_payload_iff : Shape stPayload s ↔
    s.payIdx < s.lenR ∧ s.lenR ≤ s.cfg.payloadCap ∧ s.csRx = 0x00#8 ∧ s.normal = false := by
  simp [Shape, stAddr, stCmd, stLenh, stLenl, stPayload, stCsum, stTrail, and_assoc]

theorem shape_csum_iff : Shape stCsum s ↔
    s.payIdx = s.lenR ∧ s.lenR ≤ s.cfg.payloadCap ∧ s.csRx = 0x00#8 ∧ s.normal = false := by
  simp [Shape, stAddr, stCmd, stLenh, stLenl, stPayload, stCsum, stTrail, and_assoc]

theorem shape_trail_iff : Shape stTrail s ↔ s.payIdx = s.lenR ∧ s.lenR ≤ s.cfg.payloadCap := by
  simp [Shape, stAddr, stCmd, stLenh, stLenl, stPayload, stCsum, stTrail]

end

theorem Shape.payIdx_of_le_lenl {q : BitVec 4} {s : State} (h : Shape q s) (hq : q ≤ stLenl) : s.payIdx = 0x0000#16 := by
  obtain ⟨-, -, -, -, idx, -⟩ := h
  exact idx hq

theorem Shape.normal_of_le_csum {q : BitVec 4} {s : State} (h : Shape q s) (hq : q ≤ stCsum) : s.normal = false := by
  obtain ⟨-, -, -, -, -, -, -, late⟩ := h
  exact (late hq).2

theorem decodeState_cases :
    ∀ q : BitVec 4, q ≤ stTrail → q ≤ stLenl ∨ q = stPayload ∨ q = stCsum ∨ q = stTrail := by
  decide

theorem Shape.payIdx_le_lenR {q : BitVec 4} {s : State} (h : Shape q s) (hq : q ≤ stTrail) : s.payIdx ≤ s.lenR := by
  rcases decodeState_cases q hq with hq | rfl | rfl | rfl
  · rw [h.payIdx_of_le_lenl hq]; exact BitVec.le_def.mpr (Nat.zero_le _)
  · exact BitVec.le_of_lt ((shape_payload_iff s).mp h).1
  · rw [((shape_csum_iff s).mp h).1]; exact BitVec.le_refl _
  · rw [((shape_trail_iff s).mp h).1]; exact BitVec.le_refl _

/-! ## The invariant in a decode state and in DONE -/

/-- An attempt is in progress in state `q`, and the registers meet the invariant (R39). -/
structure AttemptAt (q : BitVec 4) (s : State) : Prop where
  st : s.st = q
  shape : Shape q s
  kind : s.outKind = 0#3
  stage : s.outStage = 0x0#4
  buffer : BufferInv s
  captured : FieldInv s
  sum : SumInv s

theorem ReachInv.attemptAt {q : BitVec 4} {s : State} (h : ReachInv s) (hs : s.st = q) (hq : q ≤ stTrail) :
    AttemptAt q s := by
  subst hs
  obtain ⟨shape, kind, stage⟩ := h.attempt hq
  exact ⟨rfl, shape, kind, stage, h.buffer, h.captured, h.sum⟩

theorem not_done_of_le_trail {q : BitVec 4} (hq : q ≤ stTrail) : q ≠ stDone := by
  rintro rfl
  exact absurd hq (by decide)

theorem le_trail_of_not_done {q : BitVec 4} (hq : q ≤ stDone) (hd : q ≠ stDone) : q ≤ stTrail := by
  simp only [stDone, stTrail] at *
  bv_omega

theorem AttemptAt.reachInv {q : BitVec 4} {s : State} (h : AttemptAt q s) (hq : q ≤ stTrail) : ReachInv s := by
  obtain ⟨rfl, shape, kind, stage, buffer, captured, sum⟩ := h
  have hd := not_done_of_le_trail hq
  exact {
    state := BitVec.le_trans hq (by decide)
    attempt := fun _ => ⟨shape, kind, stage⟩
    codes := fun e => absurd e hd
    fields := fun e => absurd e hd
    validated := fun e => absurd e hd
    buffer, captured, sum }

theorem ReachInv.of_done {s : State} (hd : s.st = stDone) (codes : OutcomeCodesInv s) (fields : OutcomeFieldsInv s)
    (validated : ValidatedInv s) (buffer : BufferInv s) (captured : FieldInv s) (sum : SumInv s) : ReachInv s where
  state := hd ▸ BitVec.le_refl _
  attempt := fun hq => absurd hd (not_done_of_le_trail hq)
  codes := codes
  fields := fields
  validated := validated
  buffer := buffer
  captured := captured
  sum := sum

/-- The invariant does not read the skip count, the ghost counter or the environment's side. -/
theorem ReachInv.of_unread {s : State} (h : ReachInv s) (k : BitVec 32) (n : Nat) (x : List Byte) (g : List Stimulus)
    (a : BitVec 16) (v : Option Sample) :
    ReachInv { s with syncSkipped := k, consumed := n, stream := x, agenda := g, payRaddr := a, sampled := v } :=
  ⟨h.state, h.attempt, h.codes, h.fields, h.validated, h.buffer, h.captured, h.sum⟩

/-! ## The two ends of an attempt -/

/-- The attempt that ACK or RESET begins needs of the old state only its buffer (R35, R180). -/
theorem beginAttempt_attemptAt {s : State} (hw : Memory.wf s.payBuf)
    (hc : ∀ e ∈ s.payBuf, e.1 < s.cfg.payloadCap.toNat) : AttemptAt stSync (beginAttempt s) where
  st := rfl
  shape := (shape_sync_iff _).mpr ⟨rfl, rfl, rfl, rfl, rfl, rfl⟩
  kind := rfl
  stage := rfl
  buffer := ⟨hw, hc, BitVec.le_def.mpr (Nat.zero_le _), fun _ hi => absurd hi (Nat.not_lt_zero _)⟩
  captured := by simp [FieldInv, Config.trl]
  sum := by simp [SumInv, payloadSum]

theorem ReachInv.beginAttempt {s : State} (h : ReachInv s) : ReachInv (beginAttempt s) := by
  obtain ⟨hw, hc, -, -⟩ := h.buffer
  exact (beginAttempt_attemptAt hw hc).reachInv (by decide)

theorem OutcomeKind.code_inj {j k : OutcomeKind} : j.code = k.code ↔ j = k := by
  cases j <;> cases k <;> decide

theorem OutcomeKind.code_ne_reserved (k : OutcomeKind) : k.code ≠ 7#3 := by
  cases k <;> decide

/-- Every outcome but LENGTH_OVER_CAP keeps the registers as its stage left them (R162, R163). -/
theorem AttemptAt.finish {q : BitVec 4} {s : State} {k : OutcomeKind} (h : AttemptAt q s) (hk : k ≠ .lengthOverCap)
    (legal : StageLegal (finish k s)) (hv : q = stTrail → k ≠ .cancelled → k = validate s) : ReachInv (finish k s) := by
  obtain ⟨rfl, shape, -, -, buffer, captured, sum⟩ := h
  refine .of_done rfl (fun _ => legal) (fun _ => ?_) (fun _ hs hc => ?_) buffer captured sum
  · rw [finish_outKind, if_neg (OutcomeKind.code_inj.not.mpr hk)]
    exact shape
  · exact congrArg OutcomeKind.code (hv hs (OutcomeKind.code_inj.not.mp hc))

/-- A trailer collision, in the five stages R71 allows. -/
theorem AttemptAt.finish_unexpectedTrailer {q : BitVec 4} {s : State} (h : AttemptAt q s)
    (hq : q = stAddr ∨ q = stCmd ∨ q = stLenh ∨ (q = stLenl ∧ s.cfg.checkLenLo = true) ∨ q = stPayload) :
    ReachInv (Machine.finish .unexpectedTrailer s) := by
  refine h.finish (by decide) (.inl ⟨rfl, ?_⟩) ?_
  · rw [finish_outStage, finish_cfg, h.st]
    exact hq
  · rintro rfl
    exact absurd hq (by simp [stTrail, stAddr, stCmd, stLenh, stLenl, stPayload])

theorem validate_kind (s : State) : validate s = .ok ∨ validate s = .structuralMismatch ∨
    validate s = .checksumMismatch ∨ validate s = .trailingGarbageSkipped := by
  rcases validate_cases s with ⟨e, -⟩ | ⟨-, -, ⟨e, -⟩ | ⟨e, -⟩ | ⟨e, -⟩⟩ <;> simp [e]

theorem AttemptAt.finish_validate {s : State} (h : AttemptAt stTrail s) : ReachInv (Machine.finish (validate s) s) := by
  refine h.finish ?_ (.inr (.inr (.inl ⟨?_, h.st⟩))) fun _ _ => rfl
  · rcases validate_kind s with e | e | e | e <;> simp [e]
  · simpa only [finish_outKind, OutcomeKind.code_inj] using validate_kind s

theorem AttemptAt.finish_cancelled {q : BitVec 4} {s : State} (h : AttemptAt q s) (hq : q ≤ stTrail) :
    ReachInv (Machine.finish .cancelled s) :=
  h.finish (by decide) (.inr (.inr (.inr ⟨rfl, (h.st ▸ hq : s.st ≤ stTrail)⟩))) fun _ hc => absurd rfl hc

/-! ## The captures (R91, R93, R95, R97, R111, R121) -/

theorem AttemptAt.hdrMatch {s : State} (h : AttemptAt stSync s) : AttemptAt stAddr (enter stAddr s) :=
  ⟨rfl, (shape_addr_iff _).mpr ((shape_sync_iff s).mp h.shape), h.kind, h.stage, h.buffer, h.captured, h.sum⟩

theorem AttemptAt.addrCap {s : State} {b : Byte} (h : AttemptAt stAddr s) (hb : b ≠ Config.trl) :
    AttemptAt stCmd (enter stCmd (accumulate b { s with addrR := b })) := by
  obtain ⟨addr, rest⟩ := (shape_addr_iff s).mp h.shape
  obtain ⟨-, others⟩ := h.captured
  have sum : s.csAcc = _ := h.sum
  refine ⟨rfl, (shape_cmd_iff _).mpr rest, h.kind, h.stage, h.buffer, ⟨hb, others⟩, ?_⟩
  simp [SumInv, sum, addr, rest, payloadSum]

theorem AttemptAt.cmdCap {s : State} {b : Byte} (h : AttemptAt stCmd s) (hb : b ≠ Config.trl) :
    AttemptAt stLenh (enter stLenh (accumulate b { s with cmdR := b })) := by
  obtain ⟨cmd, rest⟩ := (shape_cmd_iff s).mp h.shape
  obtain ⟨addr, -, others⟩ := h.captured
  have sum : s.csAcc = _ := h.sum
  refine ⟨rfl, (shape_lenh_iff _).mpr rest, h.kind, h.stage, h.buffer, ⟨addr, hb, others⟩, ?_⟩
  simp [SumInv, sum, cmd, rest, payloadSum]

theorem AttemptAt.lenhCap {s : State} {b : Byte} (h : AttemptAt stLenh s) (hb : b ≠ Config.trl) :
    AttemptAt stLenl (enter stLenl (accumulate b { s with lenR := withLenHigh s.lenR b })) := by
  obtain ⟨len, rest⟩ := (shape_lenh_iff s).mp h.shape
  obtain ⟨addr, cmd, -, low⟩ := h.captured
  have sum : s.csAcc = _ := h.sum
  refine ⟨rfl, (shape_lenl_iff _).mpr ⟨?_, rest⟩, h.kind, h.stage, h.buffer, ⟨addr, cmd, ?_, ?_⟩, ?_⟩
  · simp [len]
  · simpa using hb
  · simpa using low
  · simp [SumInv, sum, len, rest, payloadSum]

/-- What LENL_CAP leaves for the route on the length (R97). -/
def captureLenLow (b : Byte) (s : State) : State := accumulate b { s with lenR := withLenLow s.lenR b }

/-- With the length complete the registers meet the invariant in the state the length leads to. -/
theorem AttemptAt.lenlCap {s : State} {b : Byte} (h : AttemptAt stLenl s)
    (hb : s.cfg.checkLenLo = true → b ≠ Config.trl) : ReachInv (routeLength (captureLenLow b s)) := by
  obtain ⟨low, idx, late⟩ := (shape_lenl_iff s).mp h.shape
  obtain ⟨addr, cmd, high, -⟩ := h.captured
  have captured : FieldInv (captureLenLow b s) :=
    ⟨addr, cmd, by simpa [captureLenLow] using high, by simpa [captureLenLow] using hb⟩
  have sum : SumInv (captureLenLow b s) := by
    have sum : s.csAcc = _ := h.sum
    simp [SumInv, captureLenLow, sum, low, idx, payloadSum]
  rcases routeLength_cases (captureLenLow b s) with ⟨long, e⟩ | ⟨fits, zero, e⟩ | ⟨fits, pos, e⟩
  · rw [e]
    refine .of_done rfl (fun _ => .inr (.inl ⟨rfl, h.st⟩)) (fun _ => ?_) (fun _ hs => ?_) h.buffer captured sum
    · rw [finish_outKind, if_pos rfl]
      exact ⟨long, idx, late⟩
    · exact absurd (h.st.symm.trans hs) (by decide)
  · rw [e]
    have idx' : (captureLenLow b s).payIdx = (captureLenLow b s).lenR := idx.trans zero.symm
    exact AttemptAt.reachInv (q := stCsum)
      ⟨rfl, (shape_csum_iff _).mpr ⟨idx', fits, late⟩, h.kind, h.stage, h.buffer, captured, sum⟩ (by decide)
  · rw [e]
    have idx' : (captureLenLow b s).payIdx < (captureLenLow b s).lenR := by
      rw [show (captureLenLow b s).payIdx = 0x0000#16 from idx]
      bv_omega
    exact AttemptAt.reachInv (q := stPayload)
      ⟨rfl, (shape_payload_iff _).mpr ⟨idx', fits, late⟩, h.kind, h.stage, h.buffer, captured, sum⟩ (by decide)

/-- Below a bound the payload index does not wrap. -/
theorem toNat_succ_of_lt {i n : BitVec 16} (h : i < n) : (i + 1#16).toNat = i.toNat + 1 := by bv_omega

theorem payloadSum_set_of_le {n i : Nat} (h : n ≤ i) (b : Byte) (m : Memory) :
    payloadSum (Memory.set i b m) n = payloadSum m n := by
  induction n with
  | zero => rfl
  | succ n ih => rw [payloadSum, payloadSum, ih (by omega), bufferByte_set_other (by omega)]

theorem payloadSum_set_succ (n : Nat) (b : Byte) (m : Memory) :
    payloadSum (Memory.set n b m) (n + 1) = payloadSum m n + b := by
  rw [payloadSum, payloadSum_set_of_le (Nat.le_refl n), bufferByte_set_same]

theorem bufferInv_collectByte {s : State} {b : Byte} (h : BufferInv s) (hi : s.payIdx < s.cfg.payloadCap)
    (hb : b ≠ Config.trl) : BufferInv (collectByte b s) := by
  obtain ⟨wf, within, -, written⟩ := h
  have hn := toNat_succ_of_lt hi
  simp only [BufferInv, collectByte_payBuf, collectByte_cfg, collectByte_payIdx, hn]
  refine ⟨Memory.set_wf _ _ wf, fun e he => ?_, ?_, fun i lt => ?_⟩
  · rcases Memory.mem_set he with rfl | he
    · exact BitVec.lt_def.mp hi
    · exact within e he
  · bv_omega
  · by_cases e : i = s.payIdx.toNat
    · simp [e, Memory.get?_set_same, hb]
    · rw [Memory.get?_set_other e]
      exact written i (by omega)

theorem sumInv_collectByte {s : State} {b : Byte} (h : SumInv s) (hi : s.payIdx < s.cfg.payloadCap) :
    SumInv (collectByte b s) := by
  simp only [SumInv, collectByte_eq, toNat_succ_of_lt hi, payloadSum_set_succ]
  rw [h, BitVec.add_assoc _ _ b]

theorem AttemptAt.collectByte {s : State} {b : Byte} (h : AttemptAt stPayload s) (hb : b ≠ Config.trl) :
    ReachInv (collectByte b s) := by
  obtain ⟨idx, fits, late⟩ := (shape_payload_iff s).mp h.shape
  have hi : s.payIdx < s.cfg.payloadCap := by bv_omega
  have buffer := bufferInv_collectByte h.buffer hi hb
  have sum := sumInv_collectByte (b := b) h.sum hi
  by_cases e : s.payIdx + 1#16 = s.lenR
  · rw [collectByte_eq, if_pos e] at buffer sum ⊢
    exact AttemptAt.reachInv (q := stCsum)
      ⟨rfl, (shape_csum_iff _).mpr ⟨e, fits, late⟩, h.kind, h.stage, buffer, h.captured, sum⟩ (by decide)
  · have idx' : s.payIdx + 1#16 < s.lenR := by bv_omega
    rw [collectByte_eq, if_neg e] at buffer sum ⊢
    exact AttemptAt.reachInv (q := stPayload)
      ⟨h.st, (shape_payload_iff _).mpr ⟨idx', fits, late⟩, h.kind, h.stage, buffer, h.captured, sum⟩ (by decide)

theorem AttemptAt.csCap {s : State} (b : Byte) (h : AttemptAt stCsum s) :
    AttemptAt stTrail (enter stTrail (setNormal true { s with csRx := b })) := by
  obtain ⟨idx, fits, -⟩ := (shape_csum_iff s).mp h.shape
  exact ⟨rfl, (shape_trail_iff _).mpr ⟨idx, fits⟩, h.kind, h.stage, h.buffer, h.captured, h.sum⟩

theorem AttemptAt.trlSkip {s : State} (h : AttemptAt stTrail s) : AttemptAt stTrail (setNormal false s) :=
  ⟨h.st, (shape_trail_iff _).mpr ((shape_trail_iff s).mp h.shape), h.kind, h.stage, h.buffer, h.captured, h.sum⟩

/-! ## Every operation and every step keeps the invariant (R39) -/

/-- An operation of the map, run in its state, keeps the invariant. -/
theorem exec_reachInv {i : Instr} {s t : State} (h : ReachInv s) (hw : i.wf s.cfg = true) (hq : i.stateField = s.st)
    (he : exec i s = .next t) : ReachInv t := by
  have attempt {q : BitVec 4} (e : q = s.st) (hle : q ≤ stTrail) : AttemptAt q s := h.attemptAt e.symm hle
  cases i with
  | hdrMatch => cases he; exact (AttemptAt.hdrMatch (attempt hq (by decide))).reachInv (by decide)
  | hdrSkip b => cases he; exact h.of_unread _ _ _ _ _ _
  | addrTrl => cases he; exact (attempt (q := stAddr) hq (by decide)).finish_unexpectedTrailer (by simp)
  | addrCap b => cases he; exact (AttemptAt.addrCap (attempt hq (by decide)) (by simpa [Instr.wf] using hw)).reachInv (by decide)
  | cmdTrl => cases he; exact (attempt (q := stCmd) hq (by decide)).finish_unexpectedTrailer (by simp)
  | cmdCap b => cases he; exact (AttemptAt.cmdCap (attempt hq (by decide)) (by simpa [Instr.wf] using hw)).reachInv (by decide)
  | lenhTrl => cases he; exact (attempt (q := stLenh) hq (by decide)).finish_unexpectedTrailer (by simp)
  | lenhCap b => cases he; exact (AttemptAt.lenhCap (attempt hq (by decide)) (by simpa [Instr.wf] using hw)).reachInv (by decide)
  | lenlTrl =>
    cases he
    exact (attempt (q := stLenl) hq (by decide)).finish_unexpectedTrailer (.inr (.inr (.inr (.inl ⟨rfl, hw⟩))))
  | lenlCap b =>
    cases he
    exact AttemptAt.lenlCap (attempt hq (by decide)) (by simpa [Instr.wf, imp_iff_not_or] using hw)
  | payTrl => cases he; exact (attempt (q := stPayload) hq (by decide)).finish_unexpectedTrailer (by simp)
  | payCap b =>
    rw [collectByte_of_exec he]
    exact AttemptAt.collectByte (attempt hq (by decide)) (by simpa [Instr.wf] using hw)
  | csCap b => cases he; exact (AttemptAt.csCap b (attempt hq (by decide))).reachInv (by decide)
  | trlMatch => cases he; exact AttemptAt.finish_validate (attempt hq (by decide))
  | trlSkip b => cases he; exact (AttemptAt.trlSkip (attempt hq (by decide))).reachInv (by decide)
  | ack q =>
    cases he
    split
    · exact h.beginAttempt
    · exact h
  | cancel q =>
    cases he
    split
    · next hle => exact (attempt rfl hle).finish_cancelled hle
    · exact h
  | reset q => cases he; exact h.beginAttempt.of_unread _ _ _ _ _ _
  | outRead q => cases he; exact h.of_unread _ _ _ _ _ _
  | payRead q => cases he; exact h.of_unread _ _ _ _ _ _
  | dbgRead q => cases he; exact h.of_unread _ _ _ _ _ _

/-- Where the decoder gives an instruction, it is one of the map. -/
def DecodesWf (cfg : Params) (r : Except DecodeError Instr) : Prop := ∀ i, r = .ok i → i.wf cfg = true

theorem decodesWf_ok {cfg : Params} {i : Instr} (h : i.wf cfg = true) : DecodesWf cfg (.ok i) := by
  rintro _ ⟨⟩
  exact h

theorem decodesWf_error {cfg : Params} (e : DecodeError) : DecodesWf cfg (.error e) := by
  rintro _ ⟨⟩

/-- The exact-byte row and the catch-all row of one state. -/
theorem decodesWf_rows {cfg : Params} {p : Prop} [Decidable p] {x y : Instr} (hx : p → x.wf cfg = true)
    (hy : ¬ p → y.wf cfg = true) : DecodesWf cfg (.ok (if p then x else y)) :=
  decodesWf_ok (iteInduction (motive := fun i : Instr => i.wf cfg = true) hx hy)

theorem decodeByte_wf (cfg : Params) (q : BitVec 4) (b : Byte) : DecodesWf cfg (decodeByte cfg q b) := by
  have rows {i j : Instr} {k : Byte} (hi : i.wf cfg = true) (hj : j.wf cfg = (b != k)) :
      DecodesWf cfg (.ok (if b = k then i else j)) :=
    decodesWf_rows (fun _ => hi) fun hb => by rw [hj, bne_iff_ne]; exact hb
  refine iteInduction (fun _ => rows rfl rfl) fun _ => ?_
  refine iteInduction (fun _ => rows rfl rfl) fun _ => ?_
  refine iteInduction (fun _ => rows rfl rfl) fun _ => ?_
  refine iteInduction (fun _ => rows rfl rfl) fun _ => ?_
  refine iteInduction (fun _ => decodesWf_rows And.right ?lenlCap) fun _ => ?_
  case lenlCap => simp [Instr.wf, imp_iff_not_or, or_comm]
  refine iteInduction (fun _ => rows rfl rfl) fun _ => ?_
  refine iteInduction (fun _ => decodesWf_ok rfl) fun _ => ?_
  refine iteInduction (fun _ => rows rfl rfl) fun _ => ?_
  exact iteInduction (fun _ => decodesWf_error _) fun _ => decodesWf_error _

theorem decodeFields_wf (cfg : Params) (c q : BitVec 4) (b : Byte) : DecodesWf cfg (decodeFields cfg c q b) := by
  refine iteInduction (fun _ => decodeByte_wf cfg q b) fun _ => ?_
  iterate 6 refine iteInduction (fun _ => decodesWf_ok rfl) fun _ => ?_
  exact decodesWf_error _

theorem wf_of_decoded {c : BitVec 4} {s : State} {i : Instr} (h : decode s.cfg (stepKey c s) = .ok i) :
    i.wf s.cfg = true := by
  rw [stepKey, decode_key] at h
  exact decodeFields_wf _ _ _ _ i h

theorem ReachInv.present {s : State} (h : ReachInv s) (m : Stimulus) (rest : List Stimulus) :
    ReachInv (present m { s with agenda := rest }) := by
  cases m with
  | offer b => exact h.of_unread _ _ _ _ _ _
  | event c a => exact h.of_unread _ _ _ _ _ _
  | edge p => exact h.of_unread _ _ _ _ _ _

theorem ReachInv.admitByte {s : State} (h : ReachInv s) (c : BitVec 4) : ReachInv (admitByte c s) := by
  unfold Machine.admitByte
  split
  · exact h.of_unread _ _ _ _ _ _
  · exact h

theorem step_reachInv {s t : State} (h : ReachInv s) (hs : step s = .next t) : ReachInv t := by
  rcases step_cases hs with ⟨-, rfl⟩ | ⟨m, rest, u, -, rfl, ⟨-, rfl⟩ | ⟨c, -, -, rfl⟩ | ⟨c, i, -, hd, he⟩⟩
  · exact h
  · exact h.present m rest
  · exact h.present m rest
  · refine exec_reachInv ((h.present m rest).admitByte c) ?_ ?_ he
    · rw [admitByte_cfg]; exact wf_of_decoded hd
    · rw [admitByte_st]; exact stateField_of_decoded hd

/-- Settles O51: the move leaves the registers, and the decoded operation keeps the invariant in its own state. -/
theorem stepKeepsTheInvariant : Obligations.StepKeepsTheInvariant := by
  unfold Obligations.StepKeepsTheInvariant
  intro s t h hs
  exact step_reachInv h hs

/-! ## The payload's length (R27, R112) -/

theorem stageLegal_decodeState {s : State} (h : StageLegal s) : s.outStage ≤ stTrail := by
  rcases h with ⟨-, e | e | e | ⟨e, -⟩ | e⟩ | ⟨-, e⟩ | ⟨-, e⟩ | ⟨-, hq⟩
  on_goal 8 => exact hq
  all_goals rw [e]; decide

theorem ReachInv.payIdx_le_lenR {s : State} (h : ReachInv s) : s.payIdx ≤ s.lenR := by
  by_cases hd : s.st = stDone
  · have fields := h.fields hd
    split at fields
    · obtain ⟨-, idx, -⟩ := fields
      rw [idx]; exact BitVec.le_def.mpr (Nat.zero_le _)
    · exact Shape.payIdx_le_lenR fields (stageLegal_decodeState (h.codes hd))
  · have hq : s.st ≤ stTrail := le_trail_of_not_done h.state hd
    exact (h.attemptAt rfl hq).shape.payIdx_le_lenR hq

/-- What an operation run in PAYLOAD can do to the state: stay, complete the payload, end by a collision or CANCEL, or reset. -/
theorem exec_from_payload {i : Instr} {s t : State} (hq : i.stateField = s.st) (hp : s.st = stPayload)
    (he : exec i s = .next t) : t.st = stPayload ∨ t.st = stCsum ∨
      (t.st = stDone ∧ (t.outKind = 1#3 ∨ t.outKind = 6#3)) ∨ t.st = stSync := by
  cases i with
  | payTrl => cases he; exact .inr (.inr (.inl ⟨rfl, .inl rfl⟩))
  | payCap b =>
    rw [collectByte_of_exec he]
    rcases collectByte_st b s with e | e
    · exact .inr (.inl e)
    · exact .inl (e.trans hp)
  | ack q =>
    cases he
    rw [if_neg (by rw [hp]; decide)]
    exact .inl hp
  | cancel q =>
    cases he
    rw [if_pos (by rw [hp]; decide)]
    exact .inr (.inr (.inl ⟨rfl, .inr rfl⟩))
  | reset q => cases he; exact .inr (.inr (.inr rfl))
  | outRead q => cases he; exact .inl hp
  | payRead q => cases he; exact .inl hp
  | dbgRead q => cases he; exact .inl hp
  | _ => cases hq.trans hp

theorem step_from_payload {s t : State} (hp : s.st = stPayload) (hs : step s = .next t) : t.st = stPayload ∨
    t.st = stCsum ∨ (t.st = stDone ∧ (t.outKind = 1#3 ∨ t.outKind = 6#3)) ∨ t.st = stSync := by
  rcases step_cases hs with ⟨-, rfl⟩ | ⟨m, rest, u, -, rfl, ⟨-, rfl⟩ | ⟨c, -, -, rfl⟩ | ⟨c, i, -, hd, he⟩⟩
  · exact .inl hp
  · exact .inl (by simpa using hp)
  · exact .inl (by simpa using hp)
  · exact exec_from_payload ((stateField_of_decoded hd).trans (admitByte_st c _).symm) (by simpa using hp) he

/-- Settles O26: the ways out of PAYLOAD, and the invariant after the step for the index. -/
theorem payloadLengthIsExact : Obligations.PayloadLengthIsExact := by
  unfold Obligations.PayloadLengthIsExact
  intro s t h hs
  have ht : ReachInv t := step_reachInv h hs
  obtain ⟨-, -, cap, -⟩ := ht.buffer
  refine ⟨fun hp hn => ?_, ht.payIdx_le_lenR, cap⟩
  rcases step_from_payload hp hs with e | e | e | e
  · exact absurd e hn
  · have shape := (ht.attemptAt e (by decide)).shape
    exact .inl ⟨e, ((shape_csum_iff t).mp shape).1⟩
  · exact .inr (.inl e)
  · exact .inr (.inr e)

/-! ## The rule of reachable states (R39) -/

theorem payloadSum_toNat {s : State} {n : Nat} (hn : n ≤ s.cfg.payloadCap.toNat) :
    (payloadSum s.payBuf n).toNat =
      ((List.range n).map (fun i => (memRead (BitVec.ofNat 16 i) s).toNat)).sum % 256 := by
  induction n with
  | zero => rfl
  | succ n ih =>
    have hlt := s.cfg.payloadCap.isLt
    have index : (BitVec.ofNat 16 n).toNat = n := by simp; omega
    have read : memRead (BitVec.ofNat 16 n) s = bufferByte s.payBuf n := by
      rw [memRead_backed (BitVec.lt_def.mpr (by omega)), index]
    rw [payloadSum, BitVec.toNat_add, ih (by omega), List.range_succ, List.map_append, List.sum_append]
    simp [read]

/-- The sum of R25 as a number: the fields and the collected bytes, modulo 256. -/
theorem csAcc_toNat {s : State} (h : SumInv s) (hp : s.payIdx ≤ s.cfg.payloadCap) :
    s.csAcc.toNat =
      (s.addrR.toNat + s.cmdR.toNat + s.lenR.toNat / 256 + s.lenR.toNat % 256 +
        ((List.range s.payIdx.toNat).map (fun i => (memRead (BitVec.ofNat 16 i) s).toNat)).sum) % 256 := by
  rw [h]
  simp only [BitVec.toNat_add, lenHigh_toNat, lenLow_toNat, payloadSum_toNat (BitVec.le_def.mp hp)]
  omega

/-- Settles O52: the shape of each state, and the accumulator's sum read as a number. -/
theorem invariantGivesTheReachableStateRule : Obligations.InvariantGivesTheReachableStateRule := by
  unfold Obligations.InvariantGivesTheReachableStateRule
  intro s h
  have shape {q : BitVec 4} (e : s.st = q) (hq : q ≤ stTrail) : Shape q s := (h.attemptAt e hq).shape
  obtain ⟨-, -, cap, -⟩ := h.buffer
  refine ⟨BitVec.le_def.mp h.state, fun e => ?_, fun e => ?_, fun e => ?_, fun e => ?_, fun hq => ?_,
    csAcc_toNat h.sum cap⟩
  · have hq : s.st ≤ stLenl := by rcases e with e | e | e | e <;> rw [e] <;> decide
    exact (shape rfl (BitVec.le_trans hq (by decide))).payIdx_of_le_lenl hq
  · obtain ⟨-, -, len, -⟩ := (shape_sync_iff s).mp (shape e (by decide))
    exact len
  · obtain ⟨idx, fits, -⟩ := (shape_payload_iff s).mp (shape e (by decide))
    exact ⟨idx, fits⟩
  · rcases e with e | e
    · exact ((shape_csum_iff s).mp (shape e (by decide))).1
    · exact ((shape_trail_iff s).mp (shape e (by decide))).1
  · exact (shape rfl (BitVec.le_trans hq (by decide))).normal_of_le_csum hq

/-! ## Launch (R69, R183) -/

theorem StageLegal.exists_code {s : State} (h : StageLegal s) : ∃ k : OutcomeKind, s.outKind = k.code := by
  rcases h with ⟨e, -⟩ | ⟨e, -⟩ | ⟨e | e | e | e, -⟩ | ⟨e, -⟩ <;> exact ⟨_, e⟩

theorem ReachInv.outKind_ne_reserved {s : State} (h : ReachInv s) : s.outKind ≠ 7#3 := by
  by_cases hd : s.st = stDone
  · obtain ⟨k, e⟩ := StageLegal.exists_code (h.codes hd)
    rw [e]
    exact k.code_ne_reserved
  · rw [(h.attemptAt rfl (le_trail_of_not_done h.state hd)).kind]
    decide

theorem launch_of_reachInv {s : State} (h : ReachInv s) : launch s = .next s := by
  rw [launch, if_neg (BitVec.not_lt.mpr h.state), if_neg h.outKind_ne_reserved, if_pos ((invHolds_iff s).mpr h)]

theorem launch_refused_of_not_reachInv {s : State} (h : ¬ ReachInv s) : ∃ r, launch s = .refused r := by
  rw [← invHolds_iff] at h
  unfold launch
  split_ifs <;> exact ⟨_, rfl⟩

/-- Settles O57: both reserved codes are outside the invariant, so the tests before it refuse no more than it does. -/
theorem launchNeedsTheInvariant : Obligations.LaunchNeedsTheInvariant := by
  unfold Obligations.LaunchNeedsTheInvariant
  refine fun s => ⟨⟨fun hl => ?_, launch_of_reachInv⟩, launch_refused_of_not_reachInv, fun hs => ?_⟩
  · by_contra hn
    obtain ⟨r, e⟩ := launch_refused_of_not_reachInv hn
    cases hl.symm.trans e
  · exact if_pos (by simp only [stDone]; bv_omega)

/-! ## ACK, the status signals, reset -/

/-- Settles O34: the two branches of ACK on `st`; the key's byte is ignored. -/
theorem ackBeginsTheNextAttempt : Obligations.AckBeginsTheNextAttempt := by
  unfold Obligations.AckBeginsTheNextAttempt
  intro q b s
  refine ⟨decode_key _ _ _ _, fun hd => ?_, fun hd => ?_⟩
  · exact congrArg Host.Outcome.next (if_pos hd)
  · exact congrArg Host.Outcome.next (if_neg hd)

/-- Settles O48: the signals' own laws, with `st` compared as a number. -/
theorem statusSignalsAreFunctionsOfTheState : Obligations.StatusSignalsAreFunctionsOfTheState :=
  fun s rst cancel => ⟨outValid_iff s, inReady_iff rst cancel s, rfl⟩

/-- Settles O49: each register of the reset state is written there. -/
theorem resetStateHasTheResetValues : Obligations.ResetStateHasTheResetValues := by
  unfold Obligations.ResetStateHasTheResetValues
  decide

/-- Settles O50: the reset state is one that BeginAttempt leaves. -/
theorem resetMeetsTheInvariant : Obligations.ResetMeetsTheInvariant := by
  unfold Obligations.ResetMeetsTheInvariant
  intro cfg m hw hc
  have fresh : AttemptAt stSync (beginAttempt { State.reset with cfg := cfg, payBuf := m }) := beginAttempt_attemptAt hw hc
  exact fresh.reachInv (by decide)

end Sys2Proof.Machine

/-! PROOFS of the statements about the stream and the payload buffer's read port (20_memory): a BYTE event alone takes from the
stream, and a read gives the byte at the index. -/

namespace Sys2Proof.Machine

/-! ## The class of a decoded instruction (R66, R67) -/

theorem decodeByte_eventClass {cfg : Params} {q : BitVec 4} {b : Byte} {i : Instr} (h : decodeByte cfg q b = .ok i) :
    i.eventClass = clsByte := by
  unfold decodeByte at h
  split_ifs at h <;> cases h <;> rfl

/-- The decoder gives an instruction of the class it reads. -/
theorem decodeFields_eventClass {cfg : Params} {c q : BitVec 4} {b : Byte} {i : Instr}
    (h : decodeFields cfg c q b = .ok i) : i.eventClass = c := by
  unfold decodeFields at h
  split at h
  · next hc => rw [decodeByte_eventClass h, hc]
  · split_ifs at h <;> cases h <;> exact Eq.symm (by assumption)

theorem decodeByte_noStepInDone {cfg : Params} {q : BitVec 4} {b : Byte}
    (h : decodeByte cfg q b = .error .noStepInDone) : q = stDone := by
  unfold decodeByte at h
  split_ifs at h
  · assumption
  · cases h

/-- The decoder finds no step for a byte in DONE, and for no other event (R67). -/
theorem decodeFields_noStepInDone {cfg : Params} {c q : BitVec 4} {b : Byte}
    (h : decodeFields cfg c q b = .error .noStepInDone) : c = clsByte ∧ q = stDone := by
  unfold decodeFields at h
  split at h
  · next hc => exact ⟨hc, decodeByte_noStepInDone h⟩
  · split_ifs at h
    cases h

/-- The rows of class BYTE are rows of decode states (R68). -/
theorem stateField_le_trail {i : Instr} (h : i.eventClass = clsByte) : i.stateField ≤ stTrail := by
  cases i with
  | ack q => cases h
  | cancel q => cases h
  | reset q => cases h
  | outRead q => cases h
  | payRead q => cases h
  | dbgRead q => cases h
  | _ => exact of_decide_eq_true rfl

/-! ## What an operation and an event do to the stream and the count (R36, R44) -/

theorem exec_stream {i : Instr} {s t : State} (h : exec i s = .next t) : t.stream = s.stream := by
  obtain ⟨-, -, -, -, -, -, -, -, -, -, -, -, -, -, stream, -⟩ := eachRegisterHasItsWriters i s t h
  exact stream

theorem exec_consumed {i : Instr} {s t : State} (hi : i.eventClass ≠ clsReset) (h : exec i s = .next t) :
    t.consumed = s.consumed := by
  obtain ⟨-, -, -, -, -, -, -, -, -, -, -, -, consumed, -⟩ := eachRegisterHasItsWriters i s t h
  cases i with
  | reset q => exact absurd rfl hi
  | _ => exact consumed

/-- An event that answers a next state is a byte that waits in DONE, or runs an operation of its own class and state. -/
theorem runEvent_cases {c : BitVec 4} {s t : State} (h : runEvent c s = .next t) :
    (c = clsByte ∧ s.st = stDone ∧ t = s) ∨
    ∃ i : Instr, i.eventClass = c ∧ i.stateField = s.st ∧ exec i (admitByte c s) = .next t := by
  cases hd : decode s.cfg (stepKey c s) with
  | ok i =>
    rw [runEvent_of_decoded hd] at h
    have hc : i.eventClass = c := by
      rw [stepKey, decode_key] at hd
      exact decodeFields_eventClass hd
    exact .inr ⟨i, hc, stateField_of_decoded hd, h⟩
  | error e =>
    simp only [runEvent, hd] at h
    cases e with
    | noStepInDone =>
      rw [stepKey, decode_key] at hd
      obtain ⟨hc, hq⟩ := decodeFields_noStepInDone hd
      exact .inl ⟨hc, hq, (Host.Outcome.next.inj h).symm⟩
    | reservedState q => cases h
    | reservedClass d => cases h

theorem runEvent_byte {s t : State} (h : runEvent clsByte s = .next t) :
    (s.st = stDone ∧ t = s) ∨
    (s.st ≤ stTrail ∧ t.stream = s.stream.tail ∧ t.consumed = s.consumed + 1) := by
  rcases runEvent_cases h with ⟨-, hd, ht⟩ | ⟨i, hc, hq, he⟩
  · exact .inl ⟨hd, ht⟩
  · rw [admitByte_clsByte] at he
    have hi : i.eventClass ≠ clsReset := by rw [hc]; decide
    exact .inr ⟨hq ▸ stateField_le_trail hc, exec_stream he, exec_consumed hi he⟩

theorem runEvent_other {c : BitVec 4} {s t : State} (hc : c ≠ clsByte) (h : runEvent c s = .next t) :
    t.stream = s.stream ∧ (c ≠ clsReset → t.consumed = s.consumed) := by
  rcases runEvent_cases h with ⟨e, -⟩ | ⟨i, rfl, -, he⟩
  · exact absurd e hc
  · rw [admitByte_other hc] at he
    exact ⟨exec_stream he, fun hr => exec_consumed hr he⟩

/-- Settles O10: a move that requests no event leaves its own state; a BYTE event finds a byte offered, and takes it or waits in
DONE; an event of another class takes none. -/
theorem streamIsTakenByByteStepsOnly : Obligations.StreamIsTakenByByteStepsOnly := by
  unfold Obligations.StreamIsTakenByByteStepsOnly
  rintro s u t m rest ha rfl hs
  cases hr : request m (present m { s with agenda := rest }) with
  | none =>
    obtain rfl := Host.Outcome.next.inj ((step_of_no_request ha hr).symm.trans hs)
    simp
  | some c =>
    rw [step_of_request ha hr] at hs
    by_cases hc : c = clsByte
    · subst hc
      rcases runEvent_byte hs with ⟨hd, rfl⟩ | ⟨hq, stream, consumed⟩
      · rw [present_st] at hd
        have hn : ¬ s.st ≤ stTrail := fun hq => not_done_of_le_trail hq hd
        exact ⟨fun _ hq => absurd hq hn, fun _ _ => ⟨rfl, rfl⟩, absurd rfl, absurd rfl⟩
      · rw [present_st] at hq
        rw [present_consumed] at consumed
        have front := List.cons_head_tail (request_byte_offered hr)
        rw [← stream] at front
        exact ⟨fun _ _ => ⟨⟨_, front.symm⟩, consumed⟩, fun _ hn => absurd hq hn, absurd rfl, absurd rfl⟩
    · obtain ⟨stream, consumed⟩ := runEvent_other hc hs
      rw [present_consumed] at consumed
      have hb : some c ≠ some clsByte := fun e => hc (Option.some.inj e)
      exact ⟨fun e => absurd e hb, fun e => absurd e hb, fun _ => stream,
        fun _ hn => consumed fun e => hn (congrArg some e)⟩

/-! ## The payload buffer's read port (R46, R144) -/

theorem exec_payRead (q : BitVec 4) (s : State) :
    exec (.payRead q) s = .next (record (.payload (memRead s.payRaddr s)) s) := rfl

/-- Settles O39: the byte recorded is MemRead's, which has the two cases; the key's byte is ignored. -/
theorem payReadGivesTheIndexedByte : Obligations.PayReadGivesTheIndexedByte := by
  unfold Obligations.PayReadGivesTheIndexedByte
  intro q b s
  refine ⟨decode_key _ _ _ _, ?_⟩
  rw [exec_payRead, memRead]
  rfl

end Sys2Proof.Machine

/-! PROOFS of the statements about the encoding (30_encoding): the step key and its decoder, the handshake of an edge, the table of
transitions, the length field, and the frame on the wire. -/

namespace Sys2Proof.Machine

/-! ## The decoder, class by class and state by state (R67, R68) -/

theorem decodeFields_byte (cfg : Params) (q : BitVec 4) (b : Byte) : decodeFields cfg clsByte q b = decodeByte cfg q b := rfl

/-- Every well-formed instruction is what the decoder reads from its three fields: an exact-byte row is tried first and takes its
own byte, and a well-formed catch-all row holds another byte. -/
theorem decodeFields_of_wf {cfg : Params} {i : Instr} (h : i.wf cfg = true) :
    decodeFields cfg i.eventClass i.stateField i.byteField = .ok i := by
  cases i with
  | hdrSkip b => exact congrArg Except.ok (if_neg (bne_iff_ne.mp h))
  | addrCap b => exact congrArg Except.ok (if_neg (bne_iff_ne.mp h))
  | cmdCap b => exact congrArg Except.ok (if_neg (bne_iff_ne.mp h))
  | lenhCap b => exact congrArg Except.ok (if_neg (bne_iff_ne.mp h))
  | lenlTrl => exact congrArg Except.ok (if_pos ⟨rfl, h⟩)
  | lenlCap b => exact congrArg Except.ok (if_neg (by simpa [Instr.wf, Instr.byteField, imp_iff_not_or, or_comm] using h))
  | payCap b => exact congrArg Except.ok (if_neg (bne_iff_ne.mp h))
  | trlSkip b => exact congrArg Except.ok (if_neg (bne_iff_ne.mp h))
  | _ => rfl

/-- Settles O2: the decoder reads the three fields of the key back. -/
theorem decodeOfEncodeIsTheInstruction : Obligations.DecodeOfEncodeIsTheInstruction := by
  unfold Obligations.DecodeOfEncodeIsTheInstruction
  intro cfg i h
  rw [encode, decode_key]
  exact decodeFields_of_wf h

/-! ## The key of what the decoder gives (R65) -/

theorem decodeByte_byteField {cfg : Params} {q : BitVec 4} {b : Byte} {i : Instr} (h : decodeByte cfg q b = .ok i) :
    i.byteField = b := by
  unfold decodeByte at h
  split_ifs at h
  all_goals cases h
  all_goals simp_all [Instr.byteField]

theorem byteField_of_not_byte {i : Instr} (h : i.eventClass ≠ clsByte) : i.byteField = 0x00#8 := by
  cases i with
  | ack q => rfl
  | cancel q => rfl
  | reset q => rfl
  | outRead q => rfl
  | payRead q => rfl
  | dbgRead q => rfl
  | _ => exact absurd rfl h

/-- The key of a decoded instruction is the key read, the byte cleared for a class that ignores it. -/
theorem encode_of_decodeFields {cfg : Params} {c q : BitVec 4} {b : Byte} {i : Instr}
    (h : decodeFields cfg c q b = .ok i) : encode i = key c q (if c = clsByte then b else 0x00#8) := by
  rw [encode, decodeFields_eventClass h, decodeFields_stateField h]
  split
  · next hc =>
    subst hc
    rw [decodeByte_byteField h]
  · next hc => rw [byteField_of_not_byte (by rwa [decodeFields_eventClass h])]

theorem key_and_key (c d q r : BitVec 4) (a b : Byte) : key c q a &&& key d r b = key (c &&& d) (q &&& r) (a &&& b) :=
  BitVec.and_append.trans (congrArg (· ++ (a &&& b)) BitVec.and_append)

/-- A mask that clears the byte of a key. -/
theorem key_and_ff00 (c q : BitVec 4) (b : Byte) : key c q b &&& 0xFF00#16 = key c q 0x00#8 :=
  calc key c q b &&& 0xFF00#16
    _ = key (c &&& BitVec.allOnes 4) (q &&& BitVec.allOnes 4) (b &&& 0x00#8) :=
      key_and_key c (BitVec.allOnes 4) q (BitVec.allOnes 4) b 0x00#8
    _ = key c q 0x00#8 := by rw [BitVec.and_allOnes, BitVec.and_allOnes, BitVec.and_zero]

/-- Settles O3: the key is made of its fields, of which the decoder keeps the class, the state and a BYTE's byte. -/
theorem encodeOfDecodeIsTheKey : Obligations.EncodeOfDecodeIsTheKey := by
  unfold Obligations.EncodeOfDecodeIsTheKey
  intro cfg k i h
  refine ⟨decodeFields_wf _ _ _ _ i h, ?_⟩
  rw [encode_of_decodeFields h]
  by_cases hc : keyClass k = clsByte
  · rw [if_pos hc, key_fields]
    exact (if_pos hc).symm
  · rw [if_neg hc, ← key_and_ff00, key_fields]
    exact (if_neg hc).symm

/-! ## The operation map (R67, R68) -/

theorem key_inj {c d q r : BitVec 4} {a b : Byte} : key c q a = key d r b ↔ c = d ∧ q = r ∧ a = b := by
  constructor
  · intro h
    exact ⟨by simpa using congrArg keyClass h, by simpa using congrArg keyState h, by simpa using congrArg keyByte h⟩
  · rintro ⟨rfl, rfl, rfl⟩
    rfl

/-- A row of the map that compares the whole key (rows 1, 3, 5, 7, 9, 11, 14). -/
def exactRow (n : String) (q : BitVec 4) (b : Byte) (v : Bool) : OpRow :=
  ⟨n, key clsByte q b, key (BitVec.allOnes 4) (BitVec.allOnes 4) (BitVec.allOnes 8), v⟩

/-- A row that leaves the byte free (rows 2, 4, 6, 8, 10, 12, 13, 15). -/
def stateRow (n : String) (q : BitVec 4) : OpRow :=
  ⟨n, key clsByte q 0x00#8, key (BitVec.allOnes 4) (BitVec.allOnes 4) 0x00#8, false⟩

/-- A row that compares the class alone (rows 16 to 21). -/
def classRow (n : String) (c : BitVec 4) : OpRow :=
  ⟨n, key c 0x0#4 0x00#8, key (BitVec.allOnes 4) 0x0#4 0x00#8, false⟩

theorem opTable_rows : opTable = [
    exactRow "HDR_MATCH" stSync Config.hdr false, stateRow "HDR_SKIP" stSync,
    exactRow "ADDR_TRL" stAddr Config.trl false, stateRow "ADDR_CAP" stAddr,
    exactRow "CMD_TRL" stCmd Config.trl false, stateRow "CMD_CAP" stCmd,
    exactRow "LENH_TRL" stLenh Config.trl false, stateRow "LENH_CAP" stLenh,
    exactRow "LENL_TRL" stLenl Config.trl true, stateRow "LENL_CAP" stLenl,
    exactRow "PAY_TRL" stPayload Config.trl false, stateRow "PAY_CAP" stPayload,
    stateRow "CS_CAP" stCsum,
    exactRow "TRL_MATCH" stTrail Config.trl false, stateRow "TRL_SKIP" stTrail,
    classRow "ACK" clsAck, classRow "CANCEL" clsCancel, classRow "RESET" clsReset,
    classRow "OUT_READ" clsOutRead, classRow "PAY_READ" clsPayRead, classRow "DBG_READ" clsDbgRead] := by
  decide

/-- Match and mask, field by field. -/
theorem rowTakes_key (cfg : Params) (c q c' q' mc mq : BitVec 4) (b b' mb : Byte) (n : String) (v : Bool) :
    rowTakes cfg (key c q b) ⟨n, key c' q' b', key mc mq mb, v⟩ = true ↔
      (c &&& mc = c' ∧ q &&& mq = q' ∧ b &&& mb = b') ∧ (v = true → cfg.checkLenLo = true) := by
  rw [rowTakes, key_and_key, Bool.and_eq_true, beq_iff_eq, key_inj]
  cases v <;> simp

section
variable (cfg : Params) (c q q' : BitVec 4) (b : Byte) (n : String) (l : List OpRow)

/-- The mnemonic of the first row of `l` that takes the key. -/
def firstMnemonic (k : BitVec 16) : Option String := (l.find? (rowTakes cfg k)).map OpRow.mnemonic

theorem firstMnemonic_nil (k : BitVec 16) : firstMnemonic cfg [] k = none := rfl

theorem firstMnemonic_cons {r : OpRow} {k : BitVec 16} {p : Prop} [Decidable p] (h : rowTakes cfg k r = true ↔ p) :
    firstMnemonic cfg (r :: l) k = if p then some r.mnemonic else firstMnemonic cfg l k := by
  by_cases hp : p
  · rw [if_pos hp, firstMnemonic, List.find?_cons_of_pos (h.mpr hp), Option.map_some]
  · rw [if_neg hp, firstMnemonic, List.find?_cons_of_neg (h.not.mpr hp), firstMnemonic]

theorem firstMnemonic_exactRow (b' : Byte) (v : Bool) : firstMnemonic cfg (exactRow n q' b' v :: l) (key c q b) =
    if (c = clsByte ∧ q = q' ∧ b = b') ∧ (v = true → cfg.checkLenLo = true) then some n
    else firstMnemonic cfg l (key c q b) :=
  firstMnemonic_cons cfg l (by simp only [exactRow, rowTakes_key, BitVec.and_allOnes])

theorem firstMnemonic_stateRow : firstMnemonic cfg (stateRow n q' :: l) (key c q b) =
    if c = clsByte ∧ q = q' then some n else firstMnemonic cfg l (key c q b) :=
  firstMnemonic_cons cfg l (by simp [stateRow, rowTakes_key, -BitVec.reduceAllOnes])

theorem firstMnemonic_classRow (c' : BitVec 4) : firstMnemonic cfg (classRow n c' :: l) (key c q b) =
    if c = c' then some n else firstMnemonic cfg l (key c q b) :=
  firstMnemonic_cons cfg l (by simp [classRow, rowTakes_key, -BitVec.reduceAllOnes])

/-- The exact-byte row of a state and the catch-all row after it. -/
theorem firstMnemonic_stateRows (b' : Byte) (v : Bool) (m : String) :
    firstMnemonic cfg (exactRow n q' b' v :: stateRow m q' :: l) (key c q b) =
      if c = clsByte ∧ q = q' then some (if b = b' ∧ (v = true → cfg.checkLenLo = true) then n else m)
      else firstMnemonic cfg l (key c q b) := by
  rw [firstMnemonic_exactRow, firstMnemonic_stateRow]
  split_ifs <;> simp_all

end

theorem byte_is_no_other_class : ¬ clsByte = clsAck ∧ ¬ clsByte = clsCancel ∧ ¬ clsByte = clsReset ∧ ¬ clsByte = clsOutRead ∧
    ¬ clsByte = clsPayRead ∧ ¬ clsByte = clsDbgRead := by
  decide

/-- The first row that takes a key has the mnemonic of the instruction decoded, and there is none where there is no step: the rows
of the map stand in the order of the decoder's branches. -/
theorem firstRow_mnemonic (cfg : Params) (c q : BitVec 4) (b : Byte) :
    (firstRow cfg (key c q b)).map OpRow.mnemonic = (decodeFields cfg c q b).toOption.map Instr.mnemonic := by
  change firstMnemonic cfg opTable (key c q b) = _
  rw [opTable_rows]
  simp only [firstMnemonic_stateRows, firstMnemonic_stateRow, firstMnemonic_classRow, firstMnemonic_nil]
  by_cases hc : c = clsByte
  · subst hc
    simp only [true_and, and_true, if_false, reduceCtorEq, false_implies, true_imp_iff, byte_is_no_other_class]
    rw [decodeFields_byte, decodeByte]
    split_ifs <;> rfl
  · simp only [hc, false_and, if_false, decodeFields]
    split_ifs <;> rfl

/-- Settles O4: `firstRow_mnemonic` on the key's fields; row 9 is an instruction that is well-formed with CHECK_LEN_LO alone. -/
theorem decoderFollowsTheOperationMap : Obligations.DecoderFollowsTheOperationMap := by
  unfold Obligations.DecoderFollowsTheOperationMap
  refine ⟨fun cfg k => ?_, fun cfg k hv hd => ?_, fun cfg hv => ?_⟩
  · have row := firstRow_mnemonic cfg (keyClass k) (keyState k) (keyByte k)
    rw [key_fields] at row
    refine ⟨fun i hd => ?_, fun e hd => ?_⟩
    · rw [row, show decodeFields cfg _ _ _ = _ from hd]
      rfl
    · rw [show decodeFields cfg _ _ _ = _ from hd] at row
      exact Option.map_eq_none_iff.mp row
  · have wf : cfg.checkLenLo = true := decodeFields_wf _ _ _ _ _ hd
    rw [hv] at wf
    cases wf
  · exact congrArg Except.ok (if_neg fun h => by rw [hv] at h; cases h.2)

/-! ## An accepted byte (R44, R75) -/

/-- An event of class `c` runs the instruction that the decoder reads from the class, `st` and the byte of its key. -/
theorem runEvent_of_fields {c : BitVec 4} {s : State} {i : Instr}
    (hd : decodeFields s.cfg c s.st (if c = clsByte then frontByte s else 0x00#8) = .ok i) :
    runEvent c s = exec i (admitByte c s) :=
  runEvent_of_decoded ((decode_key _ _ _ _).trans hd)

theorem request_byte_event {s : State} (h : s.stream ≠ []) (r : BitVec 16) :
    request (.event clsByte r) s = some clsByte := if_neg fun e => h e.2

/-- A byte at the front of the stream is taken and counted, and runs the instruction of its state. -/
theorem runEvent_byte_of_front {s : State} {b : Byte} {bs : List Byte} {i : Instr} (hb : s.stream = b :: bs)
    (hd : decodeByte s.cfg s.st b = .ok i) :
    runEvent clsByte s = exec i { s with stream := bs, consumed := s.consumed + 1 } := by
  have front : frontByte s = b := by rw [frontByte, hb, List.headD_cons]
  have taken : admitByte clsByte s = { s with stream := bs, consumed := s.consumed + 1 } := by
    rw [admitByte_clsByte, accept, hb, List.tail_cons]
  rw [← taken]
  refine runEvent_of_fields ?_
  rw [if_pos rfl, front]
  exact hd

/-! ## A run of accepted bytes -/

/-- The state `s` with its source's side, the ghost counter and the level on `pay_raddr` set: bytes `x` offered, moves `g` to come,
`n` bytes accepted since reset. -/
def withSource (s : State) (x : List Byte) (g : List Stimulus) (n : Nat) (r : BitVec 16) : State :=
  { s with stream := x, agenda := g, consumed := n, payRaddr := r }

/-- Offered in `s`, the bytes `xs` are all taken, one BYTE step each, and lead to `t`; whatever is offered and to come after them
stays. -/
def Takes (xs : List Byte) (s t : State) : Prop :=
  ∀ (v : List Byte) (rest : List Stimulus) (n : Nat) (r : BitVec 16),
    Host.Core.run Sys2Proof.core xs.length
        (withSource s (xs ++ v) (List.replicate xs.length (.event clsByte r) ++ rest) n r) =
      .next (withSource t v rest (n + xs.length) r)

theorem run_succ {M : Host.Core} {s t : M.State} (h : M.step s = .next t) (k : Nat) : M.run (k + 1) s = M.run k t := by
  rw [Host.Core.run, h]

theorem step_of_run_succ {M : Host.Core} {k : Nat} {s t : M.State} (h : M.run (k + 1) s = .next t) :
    ∃ u, M.step s = .next u := by
  rw [Host.Core.run] at h
  cases hs : M.step s with
  | next u => exact ⟨u, rfl⟩
  | fault r => rw [hs] at h; cases h
  | refused r => rw [hs] at h; cases h

/-- A run that completes can be continued where it ended. -/
theorem run_add {M : Host.Core} {m : Nat} {s t : M.State} (h : M.run m s = .next t) (k : Nat) :
    M.run (m + k) s = M.run k t := by
  induction m generalizing s with
  | zero =>
    cases h
    rw [Nat.zero_add]
  | succ m ih =>
    obtain ⟨u, hu⟩ := step_of_run_succ h
    rw [run_succ hu] at h
    rw [Nat.succ_add, run_succ hu, ih h]

theorem Takes.nil (s : State) : Takes [] s s := fun _ _ _ _ => rfl

theorem Takes.append {xs ys : List Byte} {s t u : State} (h : Takes xs s t) (k : Takes ys t u) : Takes (xs ++ ys) s u := by
  intro v rest n r
  have hs := h (ys ++ v) (List.replicate ys.length (.event clsByte r) ++ rest) n r
  rw [List.length_append, List.replicate_add, List.append_assoc, List.append_assoc, ← Nat.add_assoc]
  exact (run_add hs ys.length).trans (k v rest _ r)

/-- One accepted byte, by the instruction its state gives it, which does not read the source's side. -/
theorem Takes.byte {b : Byte} {s t : State} {i : Instr} (hd : decodeByte s.cfg s.st b = .ok i)
    (he : ∀ x g n r, exec i (withSource s x g n r) = .next (withSource t x g n r)) : Takes [b] s t := by
  intro v rest n r
  have taken : step (withSource s ([b] ++ v) (.event clsByte r :: rest) n r) =
      runEvent clsByte (withSource s ([b] ++ v) rest n r) :=
    step_of_request (s := withSource s ([b] ++ v) (.event clsByte r :: rest) n r) (m := .event clsByte r) (rest := rest)
      (c := clsByte) rfl (request_byte_event (List.cons_ne_nil b v) r)
  have run : runEvent clsByte (withSource s ([b] ++ v) rest n r) = exec i (withSource s v rest (n + 1) r) :=
    runEvent_byte_of_front rfl hd
  exact run_succ (M := Sys2Proof.core) ((taken.trans run).trans (he v rest (n + 1) r)) 0

/-! ## The bytes of a frame, one by one (R80, R91, R93, R95, R97, R111, R121 to R123) -/

section
variable {b : Byte} {s : State}

theorem takes_header (hs : s.st = stSync) : Takes [Config.hdr] s (enter stAddr s) :=
  .byte (i := .hdrMatch) (by rw [hs]; rfl) fun _ _ _ _ => rfl

theorem takes_address (hs : s.st = stAddr) (hb : b ≠ Config.trl) :
    Takes [b] s (enter stCmd (accumulate b { s with addrR := b })) :=
  .byte (i := .addrCap b) (by rw [hs]; exact congrArg Except.ok (if_neg hb)) fun _ _ _ _ => rfl

theorem takes_command (hs : s.st = stCmd) (hb : b ≠ Config.trl) :
    Takes [b] s (enter stLenh (accumulate b { s with cmdR := b })) :=
  .byte (i := .cmdCap b) (by rw [hs]; exact congrArg Except.ok (if_neg hb)) fun _ _ _ _ => rfl

theorem takes_lengthHigh (hs : s.st = stLenh) (hb : b ≠ Config.trl) :
    Takes [b] s (enter stLenl (accumulate b { s with lenR := withLenHigh s.lenR b })) :=
  .byte (i := .lenhCap b) (by rw [hs]; exact congrArg Except.ok (if_neg hb)) fun _ _ _ _ => rfl

/-- A length within the capacity leads to the payload, or to the checksum where it is 0. -/
theorem takes_lengthLow (hs : s.st = stLenl) (hb : ¬ (b = Config.trl ∧ s.cfg.checkLenLo = true))
    (fits : withLenLow s.lenR b ≤ s.cfg.payloadCap) :
    Takes [b] s
      (enter (if withLenLow s.lenR b = 0x0000#16 then stCsum else stPayload) (captureLenLow b s)) := by
  refine .byte (i := .lenlCap b) (by rw [hs]; exact congrArg Except.ok (if_neg hb)) fun x g n r => ?_
  have route (w : State) (hw : w.lenR = withLenLow s.lenR b) (hc : w.cfg = s.cfg) :
      routeLength w = enter (if withLenLow s.lenR b = 0x0000#16 then stCsum else stPayload) w := by
    rw [routeLength, hw, hc, if_neg (BitVec.not_lt.mpr fits)]
    split <;> rfl
  exact congrArg Host.Outcome.next (route _ rfl rfl)

theorem takes_payloadByte (hs : s.st = stPayload) (hb : b ≠ Config.trl) (hi : s.payIdx < s.cfg.payloadCap) :
    Takes [b] s (collectByte b s) := by
  refine .byte (i := .payCap b) (by rw [hs]; exact congrArg Except.ok (if_neg hb)) fun x g n r => ?_
  obtain ⟨-, e⟩ := (exec_payCap_cases b (withSource s x g n r)).resolve_right fun k => k.1 hi
  rw [e, collectByte_eq, collectByte_eq]
  rfl

theorem takes_checksum (b : Byte) (hs : s.st = stCsum) :
    Takes [b] s (enter stTrail (setNormal true { s with csRx := b })) :=
  .byte (i := .csCap b) (by rw [hs]; rfl) fun _ _ _ _ => rfl

theorem takes_garbageByte (hs : s.st = stTrail) (hb : b ≠ Config.trl) : Takes [b] s (setNormal false s) :=
  .byte (i := .trlSkip b) (by rw [hs]; exact congrArg Except.ok (if_neg hb)) fun _ _ _ _ => rfl

theorem takes_trailer (hs : s.st = stTrail) : Takes [Config.trl] s (finish (validate s) s) :=
  .byte (i := .trlMatch) (by rw [hs]; rfl) fun _ _ _ _ => rfl

end

/-! ## The payload and the garbage (R111, R123) -/

/-- The buffer with the bytes `p` stored from index `i` on. -/
def storeFrom (i : Nat) : List Byte → Memory → Memory
  | [], m => m
  | b :: p, m => storeFrom (i + 1) p (Memory.set i b m)

theorem bufferByte_storeFrom_below {a i : Nat} (h : a < i) (p : List Byte) (m : Memory) :
    bufferByte (storeFrom i p m) a = bufferByte m a := by
  induction p generalizing i m with
  | nil => rfl
  | cons b p ih => rw [storeFrom, ih (Nat.lt_succ_of_lt h), bufferByte_set_other (Nat.ne_of_lt h)]

theorem bufferByte_storeFrom {k : Nat} {p : List Byte} (h : k < p.length) (i : Nat) (m : Memory) :
    bufferByte (storeFrom i p m) (i + k) = p[k] := by
  induction p generalizing i k m with
  | nil => cases h
  | cons b p ih =>
    cases k with
    | zero => exact (bufferByte_storeFrom_below (Nat.lt_succ_self i) p _).trans (bufferByte_set_same i b m)
    | succ k =>
      rw [List.getElem_cons_succ, ← ih (Nat.lt_of_succ_lt_succ h) (i + 1) (Memory.set i b m), storeFrom, Nat.add_right_comm,
        Nat.add_assoc]

/-- The state after the payload `p` is collected. -/
def collectAll (p : List Byte) (s : State) : State :=
  { s with
    payBuf := storeFrom s.payIdx.toNat p s.payBuf
    csAcc := s.csAcc + byteSum p
    payIdx := s.payIdx + BitVec.ofNat 16 p.length
    st := stCsum }

/-- The rest of a payload: with the index in step with the length, CSUM is reached at its end, at once where nothing is left. -/
theorem takes_payload {p : List Byte} {s : State} (hs : s.st = if s.payIdx = s.lenR then stCsum else stPayload)
    (hp : Config.trl ∉ p) (hl : s.payIdx.toNat + p.length = s.lenR.toNat) (fits : s.lenR ≤ s.cfg.payloadCap) :
    Takes p s (collectAll p s) := by
  induction p generalizing s with
  | nil =>
    have he : s.payIdx = s.lenR := BitVec.eq_of_toNat_eq hl
    rw [if_pos he] at hs
    have same : collectAll [] s = s := by simp [collectAll, storeFrom, byteSum, ← hs]
    rw [same]
    exact .nil s
  | cons b p ih =>
    obtain ⟨hb, hp⟩ := List.ne_and_not_mem_of_not_mem_cons hp
    rw [List.length_cons] at hl
    have lt : s.payIdx < s.lenR := BitVec.lt_def.mpr (by omega)
    have cap : s.payIdx < s.cfg.payloadCap := by bv_omega
    rw [if_neg (BitVec.ne_of_lt lt)] at hs
    have last : collectAll p (collectByte b s) = collectAll (b :: p) s := by
      simp [collectAll, collectByte_eq, storeFrom, byteSum, toNat_succ_of_lt lt, BitVec.add_assoc, BitVec.ofNat_add,
        BitVec.add_comm 1#16]
    have len : (collectByte b s).lenR = s.lenR := by rw [collectByte_eq]
    rw [← last]
    refine (takes_payloadByte hs hb.symm cap).append (ih ?_ hp ?_ ?_)
    · rw [collectByte_eq, hs]
    · rw [collectByte_payIdx, toNat_succ_of_lt lt, len]
      omega
    · rw [len, collectByte_cfg]
      exact fits

theorem takes_garbage {g : List Byte} {s : State} (hs : s.st = stTrail) (hg : Config.trl ∉ g) :
    Takes g s (setNormal (s.normal && g.isEmpty) s) := by
  induction g generalizing s with
  | nil => 
    simpa [setNormal] using Takes.nil s
  | cons b g ih =>
    obtain ⟨hb, hg⟩ := List.ne_and_not_mem_of_not_mem_cons hg
    simpa [setNormal] using (takes_garbageByte hs hb.symm).append (ih (s := setNormal false s) hs hg)

/-! ## The frame on the wire (R60 to R63, R73, R124) -/

theorem lenHigh_append_lenLow (n : BitVec 16) : lenHigh n ++ lenLow n = n := BitVec.extractLsb'_append_extractLsb'

theorem withLenLow_withLenHigh (v : BitVec 16) (h l : Byte) : withLenLow (withLenHigh v h) l = h ++ l := by
  rw [withLenLow, lenHigh_withLenHigh]

/-- The state after the header, the address, the command and the length `n` of a frame. -/
def captureFields (a c : Byte) (n : BitVec 16) (s : State) : State :=
  { s with
    addrR := a
    cmdR := c
    lenR := n
    csAcc := s.csAcc + a + c + lenHigh n + lenLow n
    st := if n = 0x0000#16 then stCsum else stPayload }

theorem takes_fields {a c : Byte} {n : BitVec 16} {s : State} (hs : s.st = stSync) (ha : a ≠ Config.trl)
    (hc : c ≠ Config.trl) (high : lenHigh n ≠ Config.trl) (low : ¬ (lenLow n = Config.trl ∧ s.cfg.checkLenLo = true))
    (fits : n ≤ s.cfg.payloadCap) :
    Takes [Config.hdr, a, c, lenHigh n, lenLow n] s (captureFields a c n s) := by
  have len (v : BitVec 16) : withLenLow (withLenHigh v (lenHigh n)) (lenLow n) = n := by
    rw [withLenLow_withLenHigh, lenHigh_append_lenLow]
  have upToHigh := ((takes_header hs).append (takes_address rfl ha)).append
    ((takes_command rfl hc).append (takes_lengthHigh rfl high))
  have all := upToHigh.append (takes_lengthLow (b := lenLow n) rfl low (by rw [enter_lenR, accumulate_lenR, len]; exact fits))
  simpa [captureFields, captureLenLow, enter, accumulate, len] using all

/-- The state in TRAIL after the fields, the payload `p`, the checksum `x` and the garbage `g`. -/
def beforeTrailer (a c x : Byte) (p g : List Byte) (s : State) : State :=
  enter stTrail (setNormal g.isEmpty { collectAll p (captureFields a c (lengthField p) s) with csRx := x })

/-- A length within some capacity is its field's value. -/
theorem lengthField_toNat {p : List Byte} {cap : BitVec 16} (fits : p.length ≤ cap.toNat) :
    (lengthField p).toNat = p.length :=
  Nat.mod_eq_of_lt (Nat.lt_of_le_of_lt fits cap.isLt)

theorem takes_frame {a c : Byte} {p g : List Byte} {s : State} (x : Byte) (hs : s.st = stSync)
    (idx : s.payIdx = 0x0000#16) (ha : a ≠ Config.trl) (hc : c ≠ Config.trl) (hp : Config.trl ∉ p) (hg : Config.trl ∉ g)
    (fits : p.length ≤ s.cfg.payloadCap.toNat) (high : lenHigh (lengthField p) ≠ Config.trl)
    (low : ¬ (lenLow (lengthField p) = Config.trl ∧ s.cfg.checkLenLo = true)) :
    Takes (frameWith a c p x g) s
      (finish (validate (beforeTrailer a c x p g s)) (beforeTrailer a c x p g s)) := by
  have len := lengthField_toNat fits
  have fits' : lengthField p ≤ s.cfg.payloadCap := BitVec.le_def.mpr (len ▸ fits)
  have fields := takes_fields hs ha hc high low fits'
  have payload : Takes p (captureFields a c (lengthField p) s) (collectAll p (captureFields a c (lengthField p) s)) :=
    takes_payload (by simp [captureFields, idx, eq_comm]) hp (by simp [captureFields, idx, len]) fits'
  have checksum := takes_checksum (s := collectAll p (captureFields a c (lengthField p) s)) x rfl
  have garbage := takes_garbage
    (s := enter stTrail (setNormal true { collectAll p (captureFields a c (lengthField p) s) with csRx := x })) rfl hg
  have trailer := takes_trailer (s := beforeTrailer a c x p g s) rfl
  exact (((fields.append payload).append checksum).append garbage).append trailer

theorem length_frameWith (a c x : Byte) (p g : List Byte) : (frameWith a c p x g).length = 7 + p.length + g.length := by
  simp only [frameWith, List.length_append, List.length_cons, List.length_nil]
  omega

/-- The kind Validate returns, with the registers' comparisons written out (R124). -/
theorem validate_code (s : State) : (validate s).code =
    if s.addrR ≠ Config.addrK ∨ s.cmdR ≠ Config.cmdK then 2#3
    else if s.csAcc ≠ s.csRx then 3#3
    else if s.normal = false then 4#3
    else 0#3 := by
  unfold validate
  split_ifs <;> rfl

/-- A buffer whose first bytes are those of `p` is read back as `p`. -/
theorem payloadBytes_eq {p : List Byte} {s : State} (len : s.lenR.toNat = p.length) (fits : s.lenR ≤ s.cfg.payloadCap)
    (hb : ∀ (k : Nat) (h : k < p.length), bufferByte s.payBuf k = p[k]) : payloadBytes s = p := by
  refine List.ext_getElem (by simp [payloadBytes, len]) fun k _ hk => ?_
  have lt := s.lenR.isLt
  have index : (BitVec.ofNat 16 k).toNat = k := Nat.mod_eq_of_lt (by omega)
  have backed : BitVec.ofNat 16 k < s.cfg.payloadCap := BitVec.lt_def.mpr (by rw [index]; bv_omega)
  simp only [payloadBytes, List.getElem_map, List.getElem_range]
  rw [memRead_backed backed, index, hb k hk]

/-- In SYNC of a reachable state nothing is captured, and the sum is that of nothing. -/
theorem AttemptAt.csAcc_of_sync {s : State} (h : AttemptAt stSync s) : s.csAcc = 0x00#8 := by
  obtain ⟨addr, cmd, len, idx, -⟩ := (shape_sync_iff s).mp h.shape
  have sum : s.csAcc = _ := h.sum
  simp [sum, addr, cmd, len, idx, payloadSum]

/-- Settles O33: the frame's bytes are taken one by one, and the registers they leave are read off the last state. -/
theorem frameOnTheWireGivesItsOutcome : Obligations.FrameOnTheWireGivesItsOutcome := by
  unfold Obligations.FrameOnTheWireGivesItsOutcome
  intro a c x p g v s rest inv hs ha hc hp hg fits high low hstream hagenda
  have attempt := inv.attemptAt hs (by decide)
  obtain ⟨-, -, -, idx, -⟩ := (shape_sync_iff s).mp attempt.shape
  have len := lengthField_toNat fits
  have fits' : lengthField p ≤ s.cfg.payloadCap := BitVec.le_def.mpr (len ▸ fits)
  have high' : lenHigh (lengthField p) ≠ Config.trl := fun e => high (by rw [← len, ← lenHigh_toNat, e]; rfl)
  have low' : ¬ (lenLow (lengthField p) = Config.trl ∧ s.cfg.checkLenLo = true) :=
    fun e => low e.2 (by rw [← len, ← lenLow_toNat, e.1]; rfl)
  have run := takes_frame x hs idx ha hc hp hg fits high' low' v rest s.consumed s.payRaddr
  have start : withSource s (frameWith a c p x g ++ v)
      (List.replicate (frameWith a c p x g).length (.event clsByte s.payRaddr) ++ rest) s.consumed s.payRaddr = s := by
    rw [length_frameWith, ← hstream, ← hagenda]
    rfl
  have sum : (beforeTrailer a c x p g s).csAcc = wireChecksum a c p := by
    simp [beforeTrailer, collectAll, captureFields, wireChecksum, attempt.csAcc_of_sync]
  rw [start, length_frameWith] at run
  refine ⟨_, run, rfl, rfl, ?_, rfl, rfl, len, payloadBytes_eq len fits' ?_, rfl, sum, ?_, rfl, rfl, rfl, rfl⟩
  · refine (validate_code _).trans ?_
    have checksum : (beforeTrailer a c x p g s).csAcc ≠ (beforeTrailer a c x p g s).csRx ↔ x ≠ wireChecksum a c p := by
      rw [sum]
      exact ne_comm
    have garbage : (beforeTrailer a c x p g s).normal = false ↔ g ≠ [] := by
      rw [← Bool.not_eq_true]
      exact List.isEmpty_iff.not
    simp only [checksum, garbage]
    rfl
  · intro k hk
    have stored := bufferByte_storeFrom hk 0 s.payBuf
    rw [Nat.zero_add] at stored
    rw [← stored, show 0 = s.payIdx.toNat by rw [idx]; rfl]
    rfl
  · exact List.isEmpty_iff

/-! ## The keys that have no step, and what is refused by name (R69) -/

/-- Settles O1: each key is a literal, and the capacity plays no part in decoding. -/
theorem writtenOutKeysDecode : Obligations.WrittenOutKeysDecode := by
  unfold Obligations.WrittenOutKeysDecode
  intro cap
  exact ⟨rfl, rfl, rfl, rfl, rfl, rfl, rfl, rfl, rfl, rfl, rfl, rfl, rfl, rfl⟩

theorem state_cases : ∀ q : BitVec 4, q = stSync ∨ q = stAddr ∨ q = stCmd ∨ q = stLenh ∨ q = stLenl ∨ q = stPayload ∨
    q = stCsum ∨ q = stTrail ∨ q = stDone ∨ 0x9#4 ≤ q := by
  decide

/-- A byte has a row in every decode state (R68). -/
theorem decodeByte_of_le_trail (cfg : Params) {q : BitVec 4} (hq : q ≤ stTrail) (b : Byte) :
    ∃ i, decodeByte cfg q b = .ok i := by
  rcases state_cases q with rfl | rfl | rfl | rfl | rfl | rfl | rfl | rfl | rfl | h
  on_goal 9 => exact absurd hq (by decide)
  on_goal 9 => exact absurd (BitVec.le_trans h hq) (by decide)
  all_goals exact ⟨_, rfl⟩

theorem decodeByte_reserved (cfg : Params) {q : BitVec 4} (hq : 0x9#4 ≤ q) (b : Byte) :
    decodeByte cfg q b = .error (.reservedState q) := by
  have ne (r : BitVec 4) (hr : r < 0x9#4) : ¬ q = r := by
    rintro rfl
    exact absurd hr (BitVec.not_lt.mpr hq)
  simp only [decodeByte, ne stSync (by decide), ne stAddr (by decide), ne stCmd (by decide), ne stLenh (by decide),
    ne stLenl (by decide), ne stPayload (by decide), ne stCsum (by decide), ne stTrail (by decide), ne stDone (by decide),
    if_false]

theorem decodeByte_reservedState_iff {cfg : Params} {q : BitVec 4} {b : Byte} :
    decodeByte cfg q b = .error (.reservedState q) ↔ 0x9#4 ≤ q := by
  refine ⟨fun h => ?_, fun hq => decodeByte_reserved cfg hq b⟩
  rcases state_cases q with rfl | rfl | rfl | rfl | rfl | rfl | rfl | rfl | rfl | hq
  on_goal 10 => exact hq
  all_goals cases h

theorem class_cases : ∀ c : BitVec 4, c = clsByte ∨ c = clsAck ∨ c = clsCancel ∨ c = clsReset ∨ c = clsOutRead ∨
    c = clsPayRead ∨ c = clsDbgRead ∨ 0x7#4 ≤ c := by
  decide

theorem decodeFields_reservedClass (cfg : Params) {c : BitVec 4} (hc : 0x7#4 ≤ c) (q : BitVec 4) (b : Byte) :
    decodeFields cfg c q b = .error (.reservedClass c) := by
  have ne (d : BitVec 4) (hd : d < 0x7#4) : ¬ c = d := by
    rintro rfl
    exact absurd hd (BitVec.not_lt.mpr hc)
  simp only [decodeFields, ne clsByte (by decide), ne clsAck (by decide), ne clsCancel (by decide), ne clsReset (by decide),
    ne clsOutRead (by decide), ne clsPayRead (by decide), ne clsDbgRead (by decide), if_false]

/-- The classes 0x1 to 0x6 have their rows in every state, whatever the byte. -/
theorem decodeFields_control (cfg : Params) {c : BitVec 4} (h0 : c ≠ clsByte) (h7 : ¬ 0x7#4 ≤ c) (q : BitVec 4) :
    ∃ i, ∀ b, decodeFields cfg c q b = .ok i := by
  rcases class_cases c with rfl | rfl | rfl | rfl | rfl | rfl | rfl | h
  · exact absurd rfl h0
  on_goal 7 => exact absurd h h7
  all_goals exact ⟨_, fun _ => rfl⟩

theorem step_reservedClass {s : State} {c : BitVec 4} {r : BitVec 16} {rest : List Stimulus}
    (ha : s.agenda = .event c r :: rest) (hc : 0x7#4 ≤ c) : step s = .refused (.reservedClass c) := by
  have hr : request (.event c r) (present (.event c r) { s with agenda := rest }) = some c :=
    if_neg fun e => absurd (e.1 ▸ hc) (by decide)
  rw [step_of_request ha hr, runEvent, stepKey, decode_key, decodeFields_reservedClass _ hc]

/-- Settles O5: the decoder's errors by class and state; `launch` and `step` give the same names. -/
theorem reservedKeysAndCodesAreRefused : Obligations.ReservedKeysAndCodesAreRefused := by
  unfold Obligations.ReservedKeysAndCodesAreRefused
  refine ⟨fun cfg q b => ?_, fun cfg q b => ?_, fun cfg c q b h1 h6 => ?_, fun cfg c q b hc => ?_, fun s hs => ?_,
    fun s c r rest ha hc => step_reservedClass ha hc⟩
  · rw [decode_key]
    refine ⟨decodeByte_noStepInDone, ?_⟩
    rintro rfl
    rfl
  · rw [decode_key]
    exact decodeByte_reservedState_iff
  · have h0 : c ≠ clsByte := by rintro rfl; exact absurd h1 (by decide)
    have h7 : ¬ 0x7#4 ≤ c := fun h7 => absurd (BitVec.le_trans h7 h6) (by decide)
    obtain ⟨i, hi⟩ := decodeFields_control cfg h0 h7 q
    exact ⟨i, (decode_key _ _ _ _).trans (hi b), decodeFields_eventClass (hi b), decodeFields_stateField (hi b)⟩
  · rw [decode_key, decodeFields_reservedClass cfg hc]
  · obtain ⟨-, -, refused⟩ := launchNeedsTheInvariant s
    exact refused hs

/-! ## A table word as the next event (R65, R68) -/

/-- The byte of a key is read for class BYTE alone (R65). -/
theorem decodeFields_ignores_byte {c : BitVec 4} (hc : c ≠ clsByte) (cfg : Params) (q : BitVec 4) (b b' : Byte) :
    decodeFields cfg c q b = decodeFields cfg c q b' := by
  rw [decodeFields, decodeFields, if_neg hc, if_neg hc]

theorem request_placeKey (k : BitVec 16) {s u : State} (hu : u.stream = (placeKey k s).stream) :
    request (.event (keyClass k) s.payRaddr) u = some (keyClass k) := by
  refine if_neg fun ⟨hc, he⟩ => ?_
  rw [hu, placeKey_stream, if_pos hc] at he
  cases he

/-- The step after a key is placed runs what the key decodes to. -/
theorem step_placeKey {k : BitVec 16} {s : State} {i : Instr} (hd : decode (tableParams s.cfg k) k = .ok i) :
    step (placeKey k s) = exec i { s with
      st := keyState k
      cfg := tableParams s.cfg k
      consumed := if keyClass k = clsByte then s.consumed + 1 else s.consumed } := by
  rw [step_of_request (placeKey_agenda k s) (request_placeKey k rfl)]
  by_cases hc : keyClass k = clsByte
  · rw [if_pos hc, hc]
    refine (runEvent_byte_of_front (b := keyByte k) (bs := s.stream) (if_pos hc) ?_)
    rw [decode, hc] at hd
    exact hd
  · rw [if_neg hc]
    refine (runEvent_of_fields (i := i) ?_).trans ?_
    · rw [if_neg hc, decodeFields_ignores_byte hc _ _ _ (keyByte k)]
      exact hd
    · rw [admitByte_other hc]
      simp [placeKey, present, hc]

/-- Settles O7: the table's word is its own key. -/
theorem placedWordRunsNext : Obligations.PlacedWordRunsNext := by
  unfold Obligations.PlacedWordRunsNext
  intro s w i hw hd
  have word : tableKey 16 w = BitVec.ofNat 16 w := congrArg (BitVec.ofNat 16) (Nat.mod_eq_of_lt hw)
  rw [State.withFetchWord, word]
  exact step_placeKey hd

/-! ## The event of a clock edge (R75) -/

section
variable {p : Pins} {s : State}

theorem arbitrate_reset (hr : p.rst = true) : arbitrate p s = some clsReset := if_pos hr

theorem arbitrate_cancel (hr : p.rst = false) (hc : p.cancel = true) (hq : s.st ≤ stTrail) :
    arbitrate p s = some clsCancel := by
  simp [arbitrate, hr, hc, hq]

theorem arbitrate_ack (hr : p.rst = false) (hd : s.st = stDone) (ho : p.outReady = true) :
    arbitrate p s = some clsAck := by
  have hq : ¬ s.st ≤ stTrail := fun hq => not_done_of_le_trail hq hd
  rw [arbitrate, if_neg (by simp [hr]), if_neg fun h => hq h.2, if_pos ⟨(outValid_iff s).mpr hd, ho⟩]

theorem arbitrate_byte (hr : p.rst = false) (hc : p.cancel = false) (hq : s.st ≤ stTrail) (hv : p.inValid = true)
    (hs : s.stream ≠ []) : arbitrate p s = some clsByte := by
  simp [arbitrate, hr, hc, hq, hv, hs, not_done_of_le_trail hq, inReady]

theorem arbitrate_none (hr : p.rst = false) (hc : ¬ (p.cancel = true ∧ s.st ≤ stTrail))
    (ho : ¬ (s.st = stDone ∧ p.outReady = true))
    (hb : ¬ (p.inValid = true ∧ s.stream ≠ [] ∧ s.st ≤ stTrail ∧ p.cancel = false)) : arbitrate p s = none := by
  have hb' : ¬ (p.inValid = true ∧ s.stream ≠ [] ∧ inReady p.rst p.cancel s = true) := by
    rw [inReady_iff]
    rintro ⟨hv, hs, hq, -, hn⟩
    exact hb ⟨hv, hs, hq, hn⟩
  have ho' : ¬ (outValid s = true ∧ p.outReady = true) := by rwa [outValid_iff]
  rw [arbitrate, if_neg (by simp [hr]), if_neg hc, if_neg ho', if_neg hb']

end

/-- An event of a class other than BYTE runs its row, which takes no byte. -/
theorem runEvent_control {c : BitVec 4} {s : State} {i : Instr} (hc : c ≠ clsByte)
    (hd : decodeFields s.cfg c s.st 0x00#8 = .ok i) : runEvent c s = exec i s := by
  rw [runEvent_of_fields (i := i) (by rw [if_neg hc]; exact hd), admitByte_other hc]

/-- Settles O8: the arbitration of the edge, level by level, and the row of the event it picks. -/
theorem edgeTakesTheFirstEventInPriority : Obligations.EdgeTakesTheFirstEventInPriority := by
  unfold Obligations.EdgeTakesTheFirstEventInPriority
  intro s u p rest ha hu
  have hu' : u = present (.edge p) { s with agenda := rest } := hu
  have event {c : BitVec 4} (hr : arbitrate p u = some c) : step s = runEvent c u := by
    rw [hu'] at hr ⊢
    exact step_of_request ha hr
  have quiet (hr : arbitrate p u = none) : step s = .next u := by
    rw [hu'] at hr ⊢
    exact step_of_no_request ha hr
  refine ⟨fun hr => ?_, fun hr hc hq => ?_, fun hr hd ho => ?_, fun b bs hr hc hq hv hs => ?_, fun hr hq ho => ?_,
    fun hr hc hq hb => ?_, fun h => ?_⟩
  · exact (event (arbitrate_reset hr)).trans (runEvent_control (by decide) rfl)
  · exact (event (arbitrate_cancel hr hc hq)).trans (runEvent_control (by decide) rfl)
  · exact (event (arbitrate_ack hr hd ho)).trans (runEvent_control (by decide) rfl)
  · obtain ⟨i, hi⟩ := decodeByte_of_le_trail u.cfg hq b
    have hne : u.stream ≠ [] := by rw [hs]; exact List.cons_ne_nil b bs
    exact ⟨i, (decode_key _ _ _ _).trans hi,
      (event (arbitrate_byte hr hc hq hv hne)).trans (runEvent_byte_of_front hs hi)⟩
  · have hn : ¬ u.st ≤ stTrail := fun h => absurd (BitVec.le_trans hq h) (by decide)
    refine quiet (arbitrate_none hr (fun h => hn h.2) (fun h => ?_) fun h => hn h.2.2.1)
    rw [ho h.1] at h
    cases h.2
  · refine quiet (arbitrate_none hr (fun h => ?_) (fun h => not_done_of_le_trail hq h.1) fun h => ?_)
    · rw [hc] at h
      cases h.1
    · rcases hb with hv | hs
      · rw [hv] at h
        cases h.1
      · exact h.2.1 hs
  · rw [← Bool.not_eq_true, inReady_iff]
    rintro ⟨hq, hr, hc⟩
    rcases h with h | h | h
    · cases hr.symm.trans h
    · cases hc.symm.trans h
    · exact not_done_of_le_trail hq h

/-! ## The length field (R61) -/

theorem append_toNat (x y : Byte) : (x ++ y : BitVec 16).toNat = x.toNat * 256 + y.toNat := by
  have high : (lenHigh (x ++ y)).toNat = x.toNat := congrArg BitVec.toNat (lenHigh_append x y)
  have low : (lenLow (x ++ y)).toNat = y.toNat := congrArg BitVec.toNat (lenLow_append x y)
  rw [lenHigh_toNat] at high
  rw [lenLow_toNat] at low
  omega

@[simp] theorem routeLength_lenR (s : State) : (routeLength s).lenR = s.lenR := by
  obtain ⟨q, k, g, e, -⟩ := routeLength_writes s
  rw [e]

theorem routeLength_st_of_zero {s : State} (h : s.lenR = 0x0000#16) : (routeLength s).st = stCsum := by
  rcases routeLength_cases s with ⟨long, -⟩ | ⟨-, -, e⟩ | ⟨-, pos, -⟩
  · rw [h] at long
    exact absurd long BitVec.not_lt_zero
  · rw [e, enter_st]
  · exact absurd h pos

/-- Settles O21: each length byte is written to its own half, and the route of the length sends 0 to CSUM. -/
theorem lengthIsBigEndian : Obligations.LengthIsBigEndian := by
  unfold Obligations.LengthIsBigEndian
  intro h l s
  have len : withLenLow (withLenHigh s.lenR h) l = h ++ l := withLenLow_withLenHigh _ _ _
  refine ⟨_, _, rfl, rfl, ?_, fun hz => ?_⟩
  · rw [routeLength_lenR]
    exact (congrArg BitVec.toNat len).trans (append_toNat h l)
  · have zero : h ++ l = 0x0000#16 := BitVec.eq_of_toNat_eq ((append_toNat h l).trans hz)
    exact routeLength_st_of_zero (len.trans zero)

/-! ## The table of transitions (R76) -/

/-- The table has a row for each decode state, of which the state picks its own. -/
theorem row_of_state {q : BitVec 4} {sync addr cmd lenh lenl payload csum trail : Prop}
    (h : (q = stSync ∧ sync) ∨ (q = stAddr ∧ addr) ∨ (q = stCmd ∧ cmd) ∨ (q = stLenh ∧ lenh) ∨ (q = stLenl ∧ lenl) ∨
      (q = stPayload ∧ payload) ∨ (q = stCsum ∧ csum) ∨ (q = stTrail ∧ trail)) :
    (q = stSync → sync) ∧ (q = stAddr → addr) ∧ (q = stCmd → cmd) ∧ (q = stLenh → lenh) ∧ (q = stLenl → lenl) ∧
      (q = stPayload → payload) ∧ (q = stCsum → csum) ∧ (q = stTrail → trail) := by
  rcases h with ⟨rfl, h⟩ | ⟨rfl, h⟩ | ⟨rfl, h⟩ | ⟨rfl, h⟩ | ⟨rfl, h⟩ | ⟨rfl, h⟩ | ⟨rfl, h⟩ | ⟨rfl, h⟩ <;>
    simp [stSync, stAddr, stCmd, stLenh, stLenl, stPayload, stCsum, stTrail, h]

/-- What the byte `b` does in the state `s`: the instruction decoded, its next state, and what the table says of them. -/
def ByteRow (s : State) (b : Byte) (row : Instr → State → Prop) : Prop :=
  ∃ i t, decode s.cfg (key clsByte s.st b) = .ok i ∧ exec i s = .next t ∧ row i t

section
variable {s : State} {b : Byte}

theorem ByteRow.imp {P Q : Instr → State → Prop} (h : ByteRow s b P) (hPQ : ∀ {i t}, P i t → Q i t) : ByteRow s b Q := by
  obtain ⟨i, t, hd, he, hP⟩ := h
  exact ⟨i, t, hd, he, hPQ hP⟩

/-- The exact-byte row of a state, or its catch-all row. -/
theorem byteRow_ite {p : Prop} [Decidable p] {x y : Instr} {u v : State} {P Q : Instr → State → Prop}
    (hd : decodeByte s.cfg s.st b = .ok (if p then x else y)) (hx : exec x s = .next u) (hy : ¬ p → exec y s = .next v)
    (hP : P x u) (hQ : ¬ p → Q y v) : ByteRow s b fun i t => if p then P i t else Q i t := by
  have hd' : decode s.cfg (key clsByte s.st b) = .ok (if p then x else y) := (decode_key _ _ _ _).trans hd
  by_cases hp : p
  · rw [if_pos hp] at hd'
    exact ⟨x, u, hd', hx, Eq.mpr (if_pos hp) hP⟩
  · rw [if_neg hp] at hd'
    exact ⟨y, v, hd', hy hp, Eq.mpr (if_neg hp) (hQ hp)⟩

/-- A state where the trailer is a collision and any other byte leads to `q`. -/
theorem byteRow_collision {x y : Instr} {q : BitVec 4} {v : State}
    (hd : decodeByte s.cfg s.st b = .ok (if b = Config.trl then x else y))
    (hx : exec x s = .next (finish .unexpectedTrailer s)) (hy : exec y s = .next (enter q v)) :
    ByteRow s b fun i t => if b = 0x7E#8 then i = x ∧ t.st = stDone ∧ t.outKind = 1#3 else i = y ∧ t.st = q :=
  byteRow_ite hd hx (fun _ => hy) ⟨rfl, rfl, rfl⟩ fun _ => ⟨rfl, rfl⟩

theorem withLenLow_toNat (v : BitVec 16) (b : Byte) : (withLenLow v b).toNat = v.toNat / 256 * 256 + b.toNat := by
  rw [withLenLow, append_toNat, lenHigh_toNat]

/-- LENL_CAP by the length as a number. -/
theorem exec_lenlCap_row (b : Byte) (s : State) : ∃ t, exec (.lenlCap b) s = .next t ∧
    if s.lenR.toNat / 256 * 256 + b.toNat > s.cfg.payloadCap.toNat then t.st = stDone ∧ t.outKind = 5#3
    else if s.lenR.toNat / 256 * 256 + b.toNat = 0 then t.st = stCsum
    else t.st = stPayload := by
  refine ⟨routeLength (captureLenLow b s), rfl, ?_⟩
  rw [← withLenLow_toNat]
  have within {n : BitVec 16} (fits : n ≤ s.cfg.payloadCap) : ¬ n.toNat > s.cfg.payloadCap.toNat :=
    Nat.not_lt.mpr (BitVec.le_def.mp fits)
  have nonzero {n : BitVec 16} (pos : n ≠ 0x0000#16) : n.toNat ≠ 0 := fun h => pos (BitVec.eq_of_toNat_eq h)
  rcases routeLength_cases (captureLenLow b s) with ⟨long, e⟩ | ⟨fits, zero, e⟩ | ⟨fits, pos, e⟩
  all_goals rw [e]
  · exact Eq.mpr (if_pos (BitVec.lt_def.mp long)) ⟨rfl, rfl⟩
  · exact Eq.mpr ((if_neg (within fits)).trans (if_pos (congrArg BitVec.toNat zero))) rfl
  · exact Eq.mpr ((if_neg (within fits)).trans (if_neg (nonzero pos))) rfl

theorem byteRow_sync (hs : s.st = stSync) : ByteRow s b fun i t =>
    if b = 0xBB#8 then i = .hdrMatch ∧ t.st = stAddr else i = .hdrSkip b ∧ t.st = stSync :=
  byteRow_ite (v := { s with syncSkipped := sat32Inc s.syncSkipped }) (by rw [hs]; rfl) rfl (fun _ => rfl) ⟨rfl, rfl⟩
    fun _ => ⟨rfl, hs⟩

theorem byteRow_csum (hs : s.st = stCsum) : ByteRow s b fun i t => i = .csCap b ∧ t.st = stTrail :=
  ⟨.csCap b, _, by rw [hs]; exact decode_key _ _ _ _, rfl, rfl, rfl⟩

theorem byteRow_trail (hs : s.st = stTrail) : ByteRow s b fun i t =>
    if b = 0x7E#8 then i = .trlMatch ∧ t.st = stDone ∧ t.outKind = (validate s).code
    else i = .trlSkip b ∧ t.st = stTrail :=
  byteRow_ite (v := setNormal false s) (by rw [hs]; rfl) rfl (fun _ => rfl) ⟨rfl, rfl, rfl⟩ fun _ => ⟨rfl, hs⟩

theorem byteRow_lenl (hs : s.st = stLenl) : ByteRow s b fun i t =>
    if b = 0x7E#8 ∧ s.cfg.checkLenLo = true then i = .lenlTrl ∧ t.st = stDone ∧ t.outKind = 1#3
    else if s.lenR.toNat / 256 * 256 + b.toNat > s.cfg.payloadCap.toNat then
      i = .lenlCap b ∧ t.st = stDone ∧ t.outKind = 5#3
    else if s.lenR.toNat / 256 * 256 + b.toNat = 0 then i = .lenlCap b ∧ t.st = stCsum
    else i = .lenlCap b ∧ t.st = stPayload := by
  obtain ⟨t, ht, row⟩ := exec_lenlCap_row b s
  refine byteRow_ite (by rw [hs]; rfl) rfl (fun _ => ht) ⟨rfl, rfl, rfl⟩ fun _ => ?_
  simpa only [true_and] using row

theorem byteRow_payload (hs : s.st = stPayload) (lt : s.payIdx < s.lenR) (fits : s.lenR ≤ s.cfg.payloadCap) :
    ByteRow s b fun i t =>
      if b = 0x7E#8 then i = .payTrl ∧ t.st = stDone ∧ t.outKind = 1#3
      else if s.payIdx.toNat + 1 = s.lenR.toNat then i = .payCap b ∧ t.st = stCsum
      else i = .payCap b ∧ t.st = stPayload := by
  have cap : s.payIdx < s.cfg.payloadCap := by bv_omega
  have last : s.payIdx.toNat + 1 = s.lenR.toNat ↔ s.payIdx + 1#16 = s.lenR := by
    rw [← toNat_succ_of_lt lt, BitVec.toNat_inj]
  obtain ⟨-, e⟩ := (exec_payCap_cases b s).resolve_right fun k => k.1 cap
  refine byteRow_ite (by rw [hs]; rfl) rfl (fun _ => e) ⟨rfl, rfl, rfl⟩ fun _ => ?_
  simp only [last, collectByte_eq, true_and, hs]
  split_ifs <;> rfl

end

/-- Settles O11: the byte rows state by state; CANCEL and ACK have effect on their own side of DONE alone. -/
theorem fsmTransitionsFollowTheTable : Obligations.FsmTransitionsFollowTheTable := by
  unfold Obligations.FsmTransitionsFollowTheTable
  refine ⟨fun s b hq hp => ?_, fun s q => ?_, fun s q => ?_, fun s q => ⟨_, rfl, rfl⟩, fun cfg b => decode_key _ _ _ _⟩
  · rcases state_cases s.st with hs | hs | hs | hs | hs | hs | hs | hs | hs | hs
    · exact (byteRow_sync hs).imp fun row => row_of_state (.inl ⟨hs, row⟩)
    · exact (byteRow_collision (by rw [hs]; rfl) rfl rfl).imp fun row => row_of_state (.inr (.inl ⟨hs, row⟩))
    · exact (byteRow_collision (by rw [hs]; rfl) rfl rfl).imp fun row => row_of_state (.inr (.inr (.inl ⟨hs, row⟩)))
    · exact (byteRow_collision (by rw [hs]; rfl) rfl rfl).imp fun row => row_of_state (.inr (.inr (.inr (.inl ⟨hs, row⟩))))
    · exact (byteRow_lenl hs).imp fun row => row_of_state (.inr (.inr (.inr (.inr (.inl ⟨hs, row⟩)))))
    · obtain ⟨lt, fits⟩ := hp hs
      exact (byteRow_payload hs lt fits).imp fun row => row_of_state (.inr (.inr (.inr (.inr (.inr (.inl ⟨hs, row⟩))))))
    · exact (byteRow_csum hs).imp fun row => row_of_state (.inr (.inr (.inr (.inr (.inr (.inr (.inl ⟨hs, row⟩)))))))
    · exact (byteRow_trail hs).imp fun row => row_of_state (.inr (.inr (.inr (.inr (.inr (.inr (.inr ⟨hs, row⟩)))))))
    · exact absurd hs (not_done_of_le_trail hq)
    · exact absurd (BitVec.le_trans hs hq) (by decide)
  · refine ⟨_, rfl, fun hq => ?_, fun hd => ?_⟩
    · rw [if_pos (by exact hq)]
      exact ⟨rfl, rfl⟩
    · exact if_neg fun hq => not_done_of_le_trail hq hd
  · refine ⟨_, rfl, fun hd => ?_, fun hq => ?_⟩
    · rw [if_pos hd]
      rfl
    · exact if_neg fun hd => not_done_of_le_trail hq hd

/-! ## What a held UNEXPECTED_TRAILER shows (R71, R94, R162) -/

/-- The registers of any held outcome but LENGTH_OVER_CAP are as its stage left them. -/
theorem ReachInv.shape_of_done {s : State} (h : ReachInv s) (hd : s.st = stDone)
    (hk : s.outKind ≠ OutcomeKind.code .lengthOverCap) : Shape s.outStage s := by
  have fields := h.fields hd
  rwa [if_neg hk] at fields

theorem Shape.csRx_of_le_csum {q : BitVec 4} {s : State} (h : Shape q s) (hq : q ≤ stCsum) : s.csRx = 0x00#8 := by
  obtain ⟨-, -, -, -, -, -, -, late⟩ := h
  exact (late hq).1

theorem SumInv.of_addr {s : State} (h : SumInv s) (shape : Shape stAddr s) : s.csAcc = 0x00#8 := by
  obtain ⟨addr, cmd, len, idx, -⟩ := (shape_addr_iff s).mp shape
  rw [h, addr, cmd, len, idx]
  rfl

theorem SumInv.of_cmd {s : State} (h : SumInv s) (shape : Shape stCmd s) : s.csAcc = s.addrR := by
  obtain ⟨cmd, len, idx, -⟩ := (shape_cmd_iff s).mp shape
  rw [h, cmd, len, idx]
  simp [payloadSum]

theorem SumInv.of_lenh {s : State} (h : SumInv s) (shape : Shape stLenh s) : s.csAcc = s.addrR + s.cmdR := by
  obtain ⟨len, idx, -⟩ := (shape_lenh_iff s).mp shape
  rw [h, len, idx]
  simp [payloadSum]

theorem SumInv.of_lenl {s : State} (h : SumInv s) (shape : Shape stLenl s) :
    s.csAcc = s.addrR + s.cmdR + lenHigh s.lenR := by
  obtain ⟨low, idx, -⟩ := (shape_lenl_iff s).mp shape
  rw [h, low, idx]
  simp [payloadSum]

/-- The stages at which a trailer is a collision (R71). -/
theorem ReachInv.stage_of_collision {s : State} (h : ReachInv s) (hd : s.st = stDone)
    (hk : s.outKind = OutcomeKind.code .unexpectedTrailer) :
    s.outStage = stAddr ∨ s.outStage = stCmd ∨ s.outStage = stLenh ∨ (s.outStage = stLenl ∧ s.cfg.checkLenLo = true) ∨
      s.outStage = stPayload := by
  rcases h.codes hd with ⟨-, hq⟩ | ⟨k, -⟩ | ⟨k | k | k | k, -⟩ | ⟨k, -⟩
  · exact hq
  all_goals cases hk.symm.trans k

/-- Settles O23: the registers have the shape of the stage, and the sum is that of what the shape leaves. -/
theorem collisionShowsTheCapturedFields : Obligations.CollisionShowsTheCapturedFields := by
  unfold Obligations.CollisionShowsTheCapturedFields
  intro s h hd hk
  have stages := h.stage_of_collision hd hk
  have shape : Shape s.outStage s := h.shape_of_done hd (by rw [hk]; decide)
  have shapeAt {q : BitVec 4} (hq : s.outStage = q) : Shape q s := hq ▸ shape
  have early : s.outStage ≤ stCsum := by rcases stages with e | e | e | ⟨e, -⟩ | e <;> rw [e] <;> decide
  obtain ⟨-, -, high, -⟩ := h.captured
  obtain ⟨-, -, cap, -⟩ := h.buffer
  refine ⟨stages, fun hq => ?_, fun hq => ?_, fun hq => ?_, fun hq => ?_, fun hq => ?_, shape.csRx_of_le_csum early,
    shape.normal_of_le_csum early, fun e => high ?_⟩
  · obtain ⟨addr, cmd, len, -⟩ := (shape_addr_iff s).mp (shapeAt hq)
    exact ⟨addr, cmd, len, h.sum.of_addr (shapeAt hq)⟩
  · obtain ⟨cmd, len, -⟩ := (shape_cmd_iff s).mp (shapeAt hq)
    exact ⟨cmd, len, h.sum.of_cmd (shapeAt hq)⟩
  · obtain ⟨len, -⟩ := (shape_lenh_iff s).mp (shapeAt hq)
    exact ⟨len, h.sum.of_lenh (shapeAt hq)⟩
  · obtain ⟨low, -⟩ := (shape_lenl_iff s).mp (shapeAt hq)
    refine ⟨by rw [← lenLow_toNat, low]; rfl, ?_⟩
    rw [h.sum.of_lenl (shapeAt hq), BitVec.toNat_add, BitVec.toNat_add, lenHigh_toNat]
    omega
  · obtain ⟨idx, -⟩ := (shape_payload_iff s).mp (shapeAt hq)
    exact ⟨idx, csAcc_toNat h.sum cap⟩
  · exact BitVec.eq_of_toNat_eq ((lenHigh_toNat _).trans e)

/-! ## The outcome codes (R70) -/

/-- From `s` to `t` the kind is left, or a code is written: LENGTH_OVER_CAP's over a length past the capacity alone. -/
def KindWritten (s t : State) : Prop :=
  t.outKind = s.outKind ∨ ∃ k : OutcomeKind, t.outKind = k.code ∧ (k = .lengthOverCap → s.cfg.payloadCap < t.lenR)

theorem kindWritten_same {s t : State} (h : t.outKind = s.outKind) : KindWritten s t := .inl h

theorem kindWritten_code {s t : State} {k : OutcomeKind} (h : t.outKind = k.code) (hk : k ≠ .lengthOverCap) :
    KindWritten s t := .inr ⟨k, h, fun e => absurd e hk⟩

theorem routeLength_kindWritten (s : State) : KindWritten s (routeLength s) := by
  rcases routeLength_cases s with ⟨long, e⟩ | ⟨-, -, e⟩ | ⟨-, -, e⟩ <;> rw [e]
  · exact .inr ⟨.lengthOverCap, rfl, fun _ => long⟩
  · exact kindWritten_same rfl
  · exact kindWritten_same rfl

theorem exec_kindWritten {i : Instr} {s t : State} (h : exec i s = .next t) : KindWritten s t := by
  cases i with
  | addrTrl => cases h; exact kindWritten_code (k := .unexpectedTrailer) rfl (by decide)
  | cmdTrl => cases h; exact kindWritten_code (k := .unexpectedTrailer) rfl (by decide)
  | lenhTrl => cases h; exact kindWritten_code (k := .unexpectedTrailer) rfl (by decide)
  | lenlTrl => cases h; exact kindWritten_code (k := .unexpectedTrailer) rfl (by decide)
  | lenlCap b => cases h; exact routeLength_kindWritten (captureLenLow b s)
  | payTrl => cases h; exact kindWritten_code (k := .unexpectedTrailer) rfl (by decide)
  | payCap b => exact kindWritten_same (by rw [collectByte_of_exec h, collectByte_eq])
  | trlMatch =>
    cases h
    refine kindWritten_code (k := validate s) rfl ?_
    rcases validate_kind s with e | e | e | e <;> rw [e] <;> decide
  | ack q =>
    cases h
    split
    · exact kindWritten_code (k := .ok) rfl (by decide)
    · exact kindWritten_same rfl
  | cancel q =>
    cases h
    split
    · exact kindWritten_code (k := .cancelled) rfl (by decide)
    · exact kindWritten_same rfl
  | reset q => cases h; exact kindWritten_code (k := .ok) rfl (by decide)
  | _ => cases h; exact kindWritten_same rfl

/-- Settles O47: no kind has the code 7, and no length is over the capacity 65535. -/
theorem outcomeKindsHaveTheirCodes : Obligations.OutcomeKindsHaveTheirCodes := by
  unfold Obligations.OutcomeKindsHaveTheirCodes
  refine ⟨rfl, rfl, rfl, rfl, rfl, rfl, rfl, fun j k => OutcomeKind.code_inj.mp, OutcomeKind.code_ne_reserved,
    fun i s t h hs => ?_, fun i s t h hc hs => ?_⟩
  · rcases exec_kindWritten h with e | ⟨k, e, -⟩
    · rwa [e]
    · rw [e]
      exact k.code_ne_reserved
  · rcases exec_kindWritten h with e | ⟨k, e, long⟩
    · rwa [e]
    · rw [e]
      intro hk
      have long := long (OutcomeKind.code_inj.mp (hk : k.code = OutcomeKind.code .lengthOverCap))
      rw [hc] at long
      bv_omega

end Sys2Proof.Machine

/-! PROOFS of the statements about header synchronisation (41_header_sync): what a byte does in SYNC, and where the next attempt
begins. -/

namespace Sys2Proof.Machine

/-! ## The two operations of SYNC (R80, R81) -/

/-- Settles O12: the key is a literal, the operation writes `st` alone, and in SYNC nothing is captured. -/
theorem headerByteEntersAddress : Obligations.HeaderByteEntersAddress := by
  unfold Obligations.HeaderByteEntersAddress
  exact fun s => ⟨rfl, rfl, fun inv hs => (inv.attemptAt hs (by decide)).csAcc_of_sync⟩

/-- `sync_skipped` with `k` more bytes skipped, held at 0xFFFFFFFF (R81). -/
def skipBytes (k : Nat) (s : State) : State :=
  { s with syncSkipped := BitVec.ofNat 32 (min (s.syncSkipped.toNat + k) 0xFFFFFFFF) }

/-- The saturating count as a number. -/
theorem sat32Inc_eq (x : BitVec 32) : sat32Inc x = BitVec.ofNat 32 (min (x.toNat + 1) 0xFFFFFFFF) := by
  unfold sat32Inc
  apply BitVec.eq_of_toNat_eq
  split <;> bv_omega

theorem exec_hdrSkip (b : Byte) (s : State) : exec (.hdrSkip b) s = .next (skipBytes 1 s) := by
  rw [skipBytes, ← sat32Inc_eq]
  rfl

theorem decodeByte_hdrSkip {b : Byte} (hb : b ≠ Config.hdr) (cfg : Params) : decodeByte cfg stSync b = .ok (.hdrSkip b) :=
  congrArg Except.ok (if_neg hb)

/-- Settles O13: any byte but the header falls to the catch-all row of SYNC. -/
theorem preHeaderByteIsCounted : Obligations.PreHeaderByteIsCounted := by
  unfold Obligations.PreHeaderByteIsCounted
  exact fun b s hb => ⟨(decode_key _ _ _ _).trans (decodeByte_hdrSkip hb s.cfg), exec_hdrSkip b s⟩

/-! ## Leading noise (R82) -/

theorem skipBytes_zero (s : State) : skipBytes 0 s = s := by
  have count : BitVec.ofNat 32 (min (s.syncSkipped.toNat + 0) 0xFFFFFFFF) = s.syncSkipped :=
    BitVec.eq_of_toNat_eq (by bv_omega)
  rw [skipBytes, count]

/-- A count that saturates on the way saturates at the end. -/
theorem skipBytes_skipBytes (j k : Nat) (s : State) : skipBytes k (skipBytes j s) = skipBytes (j + k) s := by
  have first : (skipBytes j s).syncSkipped.toNat = min (s.syncSkipped.toNat + j) 0xFFFFFFFF := by
    rw [skipBytes, BitVec.toNat_ofNat]
    omega
  have count : min ((skipBytes j s).syncSkipped.toNat + k) 0xFFFFFFFF = min (s.syncSkipped.toNat + (j + k)) 0xFFFFFFFF := by
    omega
  rw [skipBytes, count]
  rfl

theorem takes_noiseByte {b : Byte} {s : State} (hs : s.st = stSync) (hb : b ≠ Config.hdr) : Takes [b] s (skipBytes 1 s) :=
  .byte (i := .hdrSkip b) (by rw [hs]; exact decodeByte_hdrSkip hb _) fun _ _ _ _ => exec_hdrSkip b _

/-- Bytes with no header among them are skipped one by one. -/
theorem takes_noise {n : List Byte} {s : State} (hs : s.st = stSync) (hn : Config.hdr ∉ n) :
    Takes n s (skipBytes n.length s) := by
  induction n generalizing s with
  | nil =>
    rw [List.length_nil, skipBytes_zero]
    exact .nil s
  | cons b n ih =>
    obtain ⟨hb, hn⟩ := List.ne_and_not_mem_of_not_mem_cons hn
    rw [List.length_cons, Nat.add_comm, ← skipBytes_skipBytes]
    exact (takes_noiseByte hs hb.symm).append (ih (s := skipBytes 1 s) hs hn)

/-- Settles O14: the noise is taken from the state's own stream and agenda. -/
theorem leadingNoiseOnlyCounts : Obligations.LeadingNoiseOnlyCounts := by
  unfold Obligations.LeadingNoiseOnlyCounts
  intro n u s rest hs hn hstream hagenda
  have run := takes_noise hs hn u rest s.consumed s.payRaddr
  rw [← hstream, ← hagenda] at run
  exact run

/-! ## The next attempt (R83) -/

/-- A BYTE event takes the front byte, and runs what it decodes to. -/
theorem step_byteEvent {s : State} {b : Byte} {bs : List Byte} {i : Instr} {r : BitVec 16} {rest : List Stimulus}
    (ha : s.agenda = .event clsByte r :: rest) (hb : s.stream = b :: bs) (hd : decodeByte s.cfg s.st b = .ok i) :
    step s = exec i (withSource s bs rest (s.consumed + 1) r) := by
  have offered : s.stream ≠ [] := by
    rw [hb]
    exact List.cons_ne_nil b bs
  exact (step_of_request ha (request_byte_event offered r)).trans (runEvent_byte_of_front hb hd)

theorem request_ackEvent (r : BitVec 16) (s : State) : request (.event clsAck r) s = some clsAck := rfl

/-- The ACK of a held outcome begins an attempt and leaves the stream. -/
theorem step_ackEvent {s : State} {r : BitVec 16} {rest : List Stimulus} (hd : s.st = stDone)
    (ha : s.agenda = .event clsAck r :: rest) :
    step s = .next (beginAttempt (withSource s s.stream rest s.consumed r)) := by
  exact ((step_of_request ha (request_ackEvent _ _)).trans (runEvent_control (i := .ack s.st) (by decide) rfl)).trans
    (congrArg Host.Outcome.next (if_pos hd))

/-- Where the trailer is a collision, its row only enters the outcome (R90, R92, R94, R96, R110). -/
theorem decodeByte_collision {cfg : Params} {q : BitVec 4}
    (h : q = stAddr ∨ q = stCmd ∨ q = stLenh ∨ (q = stLenl ∧ cfg.checkLenLo = true) ∨ q = stPayload) :
    ∃ i, decodeByte cfg q Config.trl = .ok i ∧ ∀ s, exec i s = .next (finish .unexpectedTrailer s) := by
  rcases h with rfl | rfl | rfl | ⟨rfl, check⟩ | rfl
  · exact ⟨.addrTrl, rfl, fun _ => rfl⟩
  · exact ⟨.cmdTrl, rfl, fun _ => rfl⟩
  · exact ⟨.lenhTrl, rfl, fun _ => rfl⟩
  · exact ⟨.lenlTrl, congrArg Except.ok (if_pos ⟨rfl, check⟩), fun _ => rfl⟩
  · exact ⟨.payTrl, rfl, fun _ => rfl⟩

/-- Settles O41: ACK takes no byte; a collision takes its own byte, and leaves an outcome for the ACK. -/
theorem resynchronisesAfterAnOutcome : Obligations.ResynchronisesAfterAnOutcome := by
  unfold Obligations.ResynchronisesAfterAnOutcome
  refine ⟨fun s rest r hd ha => ⟨_, step_ackEvent hd ha, rfl, rfl, rfl, rfl⟩, fun s u rest r r' hq hb ha => ?_⟩
  obtain ⟨i, hi, he⟩ := decodeByte_collision hq
  have collision := (step_byteEvent ha hb hi).trans (he _)
  have ack := step_ackEvent (s := finish .unexpectedTrailer (withSource s u (.event clsAck r' :: rest) (s.consumed + 1) r))
    (r := r') (rest := rest) rfl rfl
  exact ⟨_, (run_succ (M := Sys2Proof.core) collision 1).trans (run_succ (M := Sys2Proof.core) ack 0), rfl, rfl, rfl, rfl, rfl⟩

end Sys2Proof.Machine

/-! PROOFS of the statements about field capture (42_field_capture): the byte captured or colliding in ADDR, CMD, LENH and LENL, and
what the fields are once the length is complete. -/

namespace Sys2Proof.Machine

/-! ## The length as a number (R95, R97, R98) -/

theorem withLenHigh_eq_ofNat (v : BitVec 16) (b : Byte) :
    withLenHigh v b = BitVec.ofNat 16 (b.toNat * 256 + v.toNat % 256) := by
  rw [← lenLow_toNat, ← append_toNat, BitVec.ofNat_toNat, BitVec.setWidth_eq, withLenHigh]

theorem withLenLow_eq_ofNat (v : BitVec 16) (b : Byte) :
    withLenLow v b = BitVec.ofNat 16 (v.toNat / 256 * 256 + b.toNat) := by
  rw [← withLenLow_toNat, BitVec.ofNat_toNat, BitVec.setWidth_eq]

theorem toNat_div_ne_of_lenHigh_ne_trl {v : BitVec 16} (h : lenHigh v ≠ Config.trl) : v.toNat / 256 ≠ 0x7E :=
  fun e => h (BitVec.eq_of_toNat_eq ((lenHigh_toNat v).trans e))

theorem toNat_mod_ne_of_lenLow_ne_trl {v : BitVec 16} (h : lenLow v ≠ Config.trl) : v.toNat % 256 ≠ 0x7E :=
  fun e => h (BitVec.eq_of_toNat_eq ((lenLow_toNat v).trans e))

/-! ## Trailer collisions (R90, R92, R94, R96, R110) -/

/-- The operations of a trailer collision, one for each stage of R71. -/
def collisions : List Instr := [.addrTrl, .cmdTrl, .lenhTrl, .lenlTrl, .payTrl]

theorem exec_collision {i : Instr} (h : i ∈ collisions) (s : State) : exec i s = .next (finish .unexpectedTrailer s) := by
  simp only [collisions, List.mem_cons, List.not_mem_nil, or_false] at h
  rcases h with rfl | rfl | rfl | rfl | rfl <;> rfl

/-- Row 9 is in the map only under its condition. -/
theorem decode_lenlTrlKey_iff (cfg : Params) : decode cfg lenlTrlKey = .ok .lenlTrl ↔ cfg.checkLenLo = true := by
  refine ⟨fun h => ?_, fun check => (decode_key cfg clsByte stLenl Config.trl).trans (congrArg Except.ok (if_pos ⟨rfl, check⟩))⟩
  obtain ⟨-, never, -⟩ := decoderFollowsTheOperationMap
  exact Bool.of_not_eq_false fun check => never cfg lenlTrlKey check h

theorem AttemptAt.csAcc_of_addr {s : State} (h : AttemptAt stAddr s) : s.csAcc = 0x00#8 := h.sum.of_addr h.shape

/-- Settles O16: every collision only enters the outcome, and the registers are in the shape of the state it is met in. -/
theorem trailerCollisionEndsTheAttempt : Obligations.TrailerCollisionEndsTheAttempt := by
  unfold Obligations.TrailerCollisionEndsTheAttempt
  refine fun s => ⟨rfl, rfl, rfl, decode_lenlTrlKey_iff s.cfg, rfl, fun i hi => exec_collision hi s, fun inv => ?_⟩
  obtain ⟨addrOk, -, highOk, -⟩ := inv.captured
  refine ⟨fun hs => ?_, fun hs => ?_, fun hs => ?_, toNat_div_ne_of_lenHigh_ne_trl highOk⟩
  · have attempt : AttemptAt stAddr s := inv.attemptAt hs (by decide)
    obtain ⟨addr, -⟩ := (shape_addr_iff s).mp attempt.shape
    exact ⟨addr, attempt.csAcc_of_addr⟩
  · have attempt : AttemptAt stCmd s := inv.attemptAt hs (by decide)
    exact ⟨addrOk, attempt.sum.of_cmd attempt.shape⟩
  · obtain ⟨idx, -⟩ := (shape_payload_iff s).mp (inv.attemptAt hs (by decide)).shape
    exact idx

/-! ## The captured bytes (R91, R93, R95) -/

/-- A byte that does not meet the condition of its state's exact row falls to the catch-all row. -/
theorem decode_catchAll {cfg : Params} {q : BitVec 4} {b : Byte} {p : Prop} [Decidable p] {x y : Instr}
    (hd : decodeByte cfg q b = .ok (if p then x else y)) (hp : ¬ p) : decode cfg (key clsByte q b) = .ok y :=
  (decode_key cfg clsByte q b).trans (hd.trans (congrArg Except.ok (if_neg hp)))

/-- Settles O17: the address is the first byte summed. -/
theorem addressByteIsCaptured : Obligations.AddressByteIsCaptured := by
  unfold Obligations.AddressByteIsCaptured
  exact fun b s hb => ⟨decode_catchAll rfl hb, rfl, fun inv hs => (inv.attemptAt hs (by decide)).csAcc_of_addr⟩

/-- Settles O18: the wrapping sum of two bytes is the sum of their values modulo 256. -/
theorem commandByteIsCaptured : Obligations.CommandByteIsCaptured := by
  unfold Obligations.CommandByteIsCaptured
  exact fun b s hb => ⟨decode_catchAll rfl hb, rfl⟩

theorem exec_lenhCap (b : Byte) (s : State) : exec (.lenhCap b) s =
    .next { s with
      lenR := BitVec.ofNat 16 (b.toNat * 256 + s.lenR.toNat % 256)
      csAcc := BitVec.ofNat 8 (s.csAcc.toNat + b.toNat)
      st := stLenl } := by
  rw [← withLenHigh_eq_ofNat]
  rfl

/-- Settles O19: in LENH no byte of the length is captured yet. -/
theorem lengthHighByteIsCaptured : Obligations.LengthHighByteIsCaptured := by
  unfold Obligations.LengthHighByteIsCaptured
  refine fun b s hb => ⟨decode_catchAll rfl hb, exec_lenhCap b s, fun inv hs => ?_⟩
  obtain ⟨len, -⟩ := (shape_lenh_iff s).mp (inv.attemptAt hs (by decide)).shape
  rw [len]
  rfl

/-! ## The route on the length (R97) -/

theorem routeLength_of_long {s : State} (long : s.lenR > s.cfg.payloadCap) : routeLength s = finish .lengthOverCap s :=
  if_pos long

theorem routeLength_of_zero {s : State} (fits : s.lenR ≤ s.cfg.payloadCap) (zero : s.lenR = 0x0000#16) :
    routeLength s = enter stCsum s :=
  (if_neg (BitVec.not_lt.mpr fits)).trans (if_pos zero)

theorem routeLength_of_pos {s : State} (fits : s.lenR ≤ s.cfg.payloadCap) (pos : s.lenR ≠ 0x0000#16) :
    routeLength s = enter stPayload s :=
  (if_neg (BitVec.not_lt.mpr fits)).trans (if_neg pos)

/-- LENL_CAP writes the length and the sum, both read as numbers, and routes the attempt. -/
theorem exec_lenlCap (b : Byte) (s : State) : exec (.lenlCap b) s =
    .next (routeLength { s with
      lenR := BitVec.ofNat 16 (s.lenR.toNat / 256 * 256 + b.toNat)
      csAcc := BitVec.ofNat 8 (s.csAcc.toNat + b.toNat) }) := by
  rw [← withLenLow_eq_ofNat]
  rfl

/-- Settles O20: the three routes of the length, each under its own condition. -/
theorem lengthLowByteRoutesTheAttempt : Obligations.LengthLowByteRoutesTheAttempt := by
  unfold Obligations.LengthLowByteRoutesTheAttempt
  rintro b s l a hb rfl rfl
  rw [exec_lenlCap]
  refine ⟨decode_catchAll rfl fun e => hb e.symm, fun long => ?_, fun fits zero => ?_, fun fits pos => ?_, fun full => ?_⟩
  · exact congrArg Host.Outcome.next (routeLength_of_long long)
  · exact congrArg Host.Outcome.next (routeLength_of_zero fits zero)
  · exact congrArg Host.Outcome.next (routeLength_of_pos fits pos)
  · rw [full]
    exact BitVec.le_def.mpr (Nat.le_of_lt_succ (BitVec.isLt _))

/-! ## The fields once the length is complete (R98) -/

@[simp] theorem routeLength_payIdx (s : State) : (routeLength s).payIdx = s.payIdx := by
  obtain ⟨q, k, g, e, -⟩ := routeLength_writes s
  rw [e]

/-- Settles O22: LENL_CAP keeps the invariant, and no payload byte is in its sum yet. -/
theorem fieldsAfterTheLengthAreSummed : Obligations.FieldsAfterTheLengthAreSummed := by
  unfold Obligations.FieldsAfterTheLengthAreSummed
  intro b s t inv hs hd he _
  have wf : (Instr.lenlCap b).wf s.cfg = true := decodeByte_wf s.cfg s.st b _ ((decode_key _ _ _ _).symm.trans hd)
  have inv' : ReachInv t := exec_reachInv inv wf hs.symm he
  obtain ⟨addr, cmd, high, low⟩ := inv'.captured
  obtain ⟨-, -, cap, -⟩ := inv'.buffer
  have sum := csAcc_toNat inv'.sum cap
  obtain rfl : routeLength (captureLenLow b s) = t := Host.Outcome.next.inj he
  have idx : (routeLength (captureLenLow b s)).payIdx = 0x0000#16 :=
    (routeLength_payIdx _).trans ((inv.attemptAt hs (by decide)).shape.payIdx_of_le_lenl (by decide))
  have lowByte : lenLow (routeLength (captureLenLow b s)).lenR = b := by
    rw [routeLength_lenR]
    exact lenLow_withLenLow s.lenR b
  refine ⟨?_, ?_, addr, cmd, toNat_div_ne_of_lenHigh_ne_trl high, fun check => toNat_mod_ne_of_lenLow_ne_trl (low check)⟩
  · simpa only [idx, BitVec.toNat_zero, List.range_zero, List.map_nil, List.sum_nil, Nat.add_zero] using sum
  · rw [← lenLow_toNat, lowByte]

end Sys2Proof.Machine

/-! PROOFS of the statements about the payload (43_payload): what PAY_CAP writes in PAYLOAD, and where it stops. -/

namespace Sys2Proof.Machine

theorem exec_payCap_of_lt {s : State} (h : s.payIdx < s.cfg.payloadCap) (b : Byte) :
    exec (.payCap b) s = .next (collectByte b s) :=
  ((exec_payCap_cases b s).resolve_right fun k => k.1 h).2

/-- At or past the capacity PAY_CAP stops by name (log entry 7). -/
theorem exec_payCap_of_ge {s : State} (h : s.cfg.payloadCap ≤ s.payIdx) (b : Byte) :
    exec (.payCap b) s = .fault (.payloadIndexOutOfRange s.payIdx) :=
  ((exec_payCap_cases b s).resolve_left fun k => BitVec.not_lt.mpr h k.1).2

/-- Below a bound the next index is the bound as a word exactly where it is as a number. -/
theorem succ_eq_iff_of_lt {i n : BitVec 16} (h : i < n) : i + 1#16 = n ↔ i.toNat + 1 = n.toNat := by
  rw [← toNat_succ_of_lt h, BitVec.toNat_inj]

/-- A collected byte's writes, with the sum and the declared length read as numbers (R111). -/
theorem collectByte_eq_of_lt {s : State} (h : s.payIdx < s.lenR) (b : Byte) : collectByte b s =
    { s with
      payBuf := (collectByte b s).payBuf
      csAcc := BitVec.ofNat 8 (s.csAcc.toNat + b.toNat)
      payIdx := (collectByte b s).payIdx
      st := if s.payIdx.toNat + 1 = s.lenR.toNat then stCsum else s.st } := by
  simp only [collectByte_eq, succ_eq_iff_of_lt h]
  rfl

/-- Settles O24: below the declared length PAY_CAP collects the byte, and its index does not wrap. -/
theorem payloadByteIsCollected : Obligations.PayloadByteIsCollected := by
  unfold Obligations.PayloadByteIsCollected
  intro b s hb lt fits
  have cap : s.payIdx < s.cfg.payloadCap := Std.lt_of_lt_of_le lt fits
  refine ⟨decode_catchAll rfl hb, collectByte b s, exec_payCap_of_lt cap b, collectByte_eq_of_lt lt b, ?_,
    memRead_collectByte_same cap b, fun a ha => memRead_collectByte_other ha b⟩
  rw [collectByte_payIdx, toNat_succ_of_lt lt]

/-- Settles O54: in PAYLOAD of a reachable state the index is below the length, and the length within the capacity. -/
theorem payCapStopsOnlyOutsideTheBuffer : Obligations.PayCapStopsOnlyOutsideTheBuffer := by
  unfold Obligations.PayCapStopsOnlyOutsideTheBuffer
  refine fun b s => ⟨fun past => exec_payCap_of_ge past b, fun cap => ⟨_, exec_payCap_of_lt cap b⟩, fun inv hs => ?_⟩
  obtain ⟨lt, fits, -⟩ := (shape_payload_iff s).mp (inv.attemptAt hs (by decide)).shape
  exact ⟨_, exec_payCap_of_lt (Std.lt_of_lt_of_le lt fits) b⟩

end Sys2Proof.Machine

/-! PROOFS of the statements about the checksum, the trailer and the validation (44_checksum_trailer): what the sum is of, how a
frame ends, and what an OK outcome holds. -/

namespace Sys2Proof.Machine

/-! ## The checksum accumulator (R120) -/

@[simp] theorem routeLength_csAcc (s : State) : (routeLength s).csAcc = s.csAcc := by
  obtain ⟨q, k, g, e, -⟩ := routeLength_writes s
  rw [e]

/-- Settles O27: the captures add, `beginAttempt` clears; and in CSUM the collected bytes are the whole payload. -/
theorem checksumAccumulatorIsTheSum : Obligations.ChecksumAccumulatorIsTheSum := by
  unfold Obligations.ChecksumAccumulatorIsTheSum
  refine ⟨fun i s t h => ?_, fun s inv hs => ?_⟩
  · cases i with
    | lenlCap b => cases h; exact routeLength_csAcc (captureLenLow b s)
    | payCap b => rw [collectByte_of_exec h, collectByte_eq]
    | ack q => cases h; exact apply_ite State.csAcc _ _ _
    | cancel q => cases h; exact (apply_ite State.csAcc _ _ _).trans (ite_self _)
    | _ => cases h; rfl
  · obtain ⟨complete, -⟩ := (shape_csum_iff s).mp (inv.attemptAt hs (by decide)).shape
    obtain ⟨-, -, cap, -⟩ := inv.buffer
    have sum := csAcc_toNat inv.sum cap
    rw [complete] at sum
    rw [payloadBytes, List.map_map]
    exact sum

/-! ## Validation (R124, R126) -/

theorem validate_of_wrong_field {s : State} (h : s.addrR ≠ Config.addrK ∨ s.cmdR ≠ Config.cmdK) :
    validate s = .structuralMismatch := if_pos h

/-- With the right address and command the checksum decides, and then the garbage. -/
theorem validate_of_right_fields {s : State} (ha : s.addrR = Config.addrK) (hc : s.cmdR = Config.cmdK) :
    validate s = if s.csAcc ≠ s.csRx then .checksumMismatch
      else if s.normal = false then .trailingGarbageSkipped else .ok :=
  if_neg fun h => h.elim (absurd ha) (absurd hc)

theorem xor_bit_ne_self (x : Byte) {n : Nat} (h : n < 8) : x ^^^ (1#8 <<< n) ≠ x := by
  have bit : ∀ n < 8, 1#8 <<< n ≠ 0#8 := by decide
  exact fun e => bit n h ((BitVec.xor_right_inj x).mp (e.trans BitVec.xor_zero.symm))

/-- Settles O30: Validate's cases by the fields, the checksum and the garbage; a flipped bit is a wrong checksum. -/
theorem flippedChecksumBitNeverPasses : Obligations.FlippedChecksumBitNeverPasses := by
  unfold Obligations.FlippedChecksumBitNeverPasses
  refine ⟨fun s ha hc => ?_, fun s h => validate_of_wrong_field h, fun s n hn ha hc flipped => ?_⟩
  · rw [validate_of_right_fields ha hc]
    refine ⟨fun sum clean => ?_, fun sum garbage => ?_, fun wrong => if_pos wrong⟩
    · rw [if_neg (not_not_intro sum), if_neg (ne_false_of_eq_true clean)]
    · rw [if_neg (not_not_intro sum), if_pos garbage]
  · have wrong : s.csAcc ≠ s.csRx := by
      rw [flipped]
      exact (xor_bit_ne_self s.csAcc hn).symm
    have kind : validate s = .checksumMismatch := (validate_of_right_fields ha hc).trans (if_pos wrong)
    exact ⟨finish (validate s) s, rfl, congrArg OutcomeKind.code kind⟩

/-! ## A held OK outcome (R125) -/

theorem ReachInv.validate_of_ok {s : State} (h : ReachInv s) (hd : s.st = stDone)
    (hk : s.outKind = OutcomeKind.code .ok) : validate s = .ok := by
  have kind := h.validated hd (h.outStage_of_ok hd hk) (by rw [hk]; decide)
  exact (OutcomeKind.code_inj.mp (hk.symm.trans kind)).symm

/-- What Validate has compared where it returns OK. -/
theorem fields_of_validate_ok {s : State} (h : validate s = .ok) :
    s.addrR = Config.addrK ∧ s.cmdR = Config.cmdK ∧ s.csAcc = s.csRx ∧ s.normal = true := by
  rcases validate_cases s with ⟨e, -⟩ | ⟨ha, hc, ⟨e, -⟩ | ⟨e, -⟩ | ⟨-, sum, clean⟩⟩
  · cases h.symm.trans e
  · cases h.symm.trans e
  · cases h.symm.trans e
  · exact ⟨ha, hc, sum, clean⟩

theorem byteSum_append (p q : List Byte) : byteSum (p ++ q) = byteSum p + byteSum q := by
  induction p with
  | nil => simp [byteSum]
  | cons b p ih => simp [byteSum, ih, BitVec.add_assoc]

/-- The sum of R120 over the buffer is the sum of R62 over the bytes read from it. -/
theorem payloadSum_eq_byteSum (m : Memory) (n : Nat) : payloadSum m n = byteSum ((List.range n).map (bufferByte m)) := by
  induction n with
  | zero => rfl
  | succ n ih =>
    rw [payloadSum, ih, List.range_succ, List.map_append, byteSum_append]
    simp [byteSum]

theorem length_payloadBytes (s : State) : (payloadBytes s).length = s.lenR.toNat := by simp [payloadBytes]

theorem lengthField_payloadBytes (s : State) : lengthField (payloadBytes s) = s.lenR := by
  rw [lengthField, length_payloadBytes, BitVec.ofNat_toNat, BitVec.setWidth_eq]

theorem payloadBytes_eq_bufferBytes {s : State} (fits : s.lenR ≤ s.cfg.payloadCap) :
    payloadBytes s = (List.range s.lenR.toNat).map (bufferByte s.payBuf) :=
  payloadBytes_eq (by simp) fits (by simp)

/-- With the whole payload collected, the sum is the checksum of the frame on the wire (R62, R120). -/
theorem SumInv.eq_wireChecksum {s : State} (h : SumInv s) (complete : s.payIdx = s.lenR)
    (fits : s.lenR ≤ s.cfg.payloadCap) : s.csAcc = wireChecksum s.addrR s.cmdR (payloadBytes s) := by
  rw [h, wireChecksum, lengthField_payloadBytes, payloadBytes_eq_bufferBytes fits, ← payloadSum_eq_byteSum, complete]

theorem bufferByte_ne_trl_of_collected {s : State} (h : BufferInv s) {k : Nat} (hk : k < s.payIdx.toNat) :
    bufferByte s.payBuf k ≠ Config.trl := by
  obtain ⟨-, -, -, written⟩ := h
  obtain ⟨b, stored, hb⟩ := (Option.any_eq_true _ _).mp (written k hk)
  rw [bufferByte, stored]
  exact bne_iff_ne.mp hb

/-- No byte of a whole payload is the trailer (R112). -/
theorem trl_notMem_payloadBytes {s : State} (h : BufferInv s) (complete : s.payIdx = s.lenR)
    (fits : s.lenR ≤ s.cfg.payloadCap) : Config.trl ∉ payloadBytes s := by
  rw [payloadBytes_eq_bufferBytes fits, List.mem_map]
  rintro ⟨k, hk, e⟩
  rw [List.mem_range, ← complete] at hk
  exact bufferByte_ne_trl_of_collected h hk e

/-! ## What a step does to a held outcome (R125, R140 to R145) -/

/-- In DONE an operation but ACK and RESET writes at most the consumer's sample. -/
theorem exec_in_done {i : Instr} {s t : State} (hd : s.st = stDone) (hq : i.stateField = s.st)
    (ha : i.eventClass ≠ clsAck) (hr : i.eventClass ≠ clsReset) (h : exec i s = .next t) :
    t = { s with sampled := t.sampled } := by
  cases i with
  | ack q => exact absurd rfl ha
  | cancel q =>
    cases h
    rw [if_neg fun hle => not_done_of_le_trail hle hd]
  | reset q => exact absurd rfl hr
  | outRead q => cases h; rfl
  | payRead q => cases h; rfl
  | dbgRead q => cases h; rfl
  | _ => cases hq.trans hd

theorem runEvent_in_done {c : BitVec 4} {s t : State} (hd : s.st = stDone) (ha : c ≠ clsAck) (hr : c ≠ clsReset)
    (h : runEvent c s = .next t) : t = { s with sampled := t.sampled } := by
  rcases runEvent_cases h with ⟨-, -, rfl⟩ | ⟨i, rfl, hq, he⟩
  · rfl
  · have hb : i.eventClass ≠ clsByte := fun e => not_done_of_le_trail (stateField_le_trail e) (hq.trans hd)
    rw [admitByte_other hb] at he
    exact exec_in_done hd hq ha hr he

theorem frameOf_sampled (s : State) (v : Option Sample) : frameOf { s with sampled := v } = frameOf s := rfl

theorem frameOf_present (m : Stimulus) (rest : List Stimulus) (s : State) :
    frameOf (present m { s with agenda := rest }) = frameOf s := by
  cases m with
  | offer b => rfl
  | event c r => rfl
  | edge p => rfl

/-- A step that is no ACK and no RESET keeps the frame record of a held outcome. -/
theorem step_frameOf_of_done {s t : State} {m : Stimulus} {rest : List Stimulus} (hd : s.st = stDone)
    (hag : s.agenda = m :: rest) (ha : request m (present m { s with agenda := rest }) ≠ some clsAck)
    (hr : request m (present m { s with agenda := rest }) ≠ some clsReset) (h : step s = .next t) :
    frameOf t = frameOf s := by
  cases hm : request m (present m { s with agenda := rest }) with
  | none =>
    obtain rfl := Host.Outcome.next.inj ((step_of_no_request hag hm).symm.trans h)
    exact frameOf_present m rest s
  | some c =>
    rw [hm] at ha hr
    rw [step_of_request hag hm] at h
    have held : (present m { s with agenda := rest }).st = stDone := by rw [present_st]; exact hd
    have kept := runEvent_in_done held (fun e => ha (congrArg some e)) (fun e => hr (congrArg some e)) h
    rw [kept, frameOf_sampled]
    exact frameOf_present m rest s

/-- Settles O32: the invariant says of an OK outcome that Validate returned OK on a whole payload; in DONE only ACK and RESET
write what the record reads. -/
theorem okOutcomeIsAValidFrame : Obligations.OkOutcomeIsAValidFrame := by
  unfold Obligations.OkOutcomeIsAValidFrame
  intro s inv hd hk
  obtain ⟨addr, cmd, sum, clean⟩ := fields_of_validate_ok (inv.validate_of_ok hd hk)
  have shape : Shape stTrail s := inv.outStage_of_ok hd hk ▸ inv.shape_of_done hd (by rw [hk]; decide)
  obtain ⟨complete, fits⟩ := (shape_trail_iff s).mp shape
  have checksum := inv.sum.eq_wireChecksum complete fits
  rw [addr, cmd] at checksum
  refine ⟨_, if_pos ⟨hd, hk⟩, addr, rfl, cmd, rfl, rfl, fits, rfl, trl_notMem_payloadBytes inv.buffer complete fits, rfl,
    sum.symm, sum.symm.trans checksum, clean, ?_⟩
  rintro m rest u t hag rfl ha hr hs
  exact (step_frameOf_of_done hd hag ha hr hs).trans (if_pos ⟨hd, hk⟩)

/-! ## The operations of CSUM and TRAIL (R121 to R123) -/

/-- Settles O28: CSUM has one row, with no exact byte before it. -/
theorem checksumByteIsCaptured : Obligations.ChecksumByteIsCaptured := by
  unfold Obligations.ChecksumByteIsCaptured
  exact fun b s => ⟨decode_key _ _ _ _, rfl⟩

/-- Settles O29: the code written is that of Validate's kind. -/
theorem trailerValidatesTheFrame : Obligations.TrailerValidatesTheFrame := by
  unfold Obligations.TrailerValidatesTheFrame
  refine fun s => ⟨rfl, ?_⟩
  exact congrArg (fun k => Host.Outcome.next { s with outKind := k, outStage := s.st, st := stDone }) (validate_code s)

/-- Settles O31: any byte but the trailer falls to the catch-all row of TRAIL. -/
theorem trailingGarbageClearsNormal : Obligations.TrailingGarbageClearsNormal := by
  unfold Obligations.TrailingGarbageClearsNormal
  exact fun b s hb => ⟨decode_catchAll rfl hb, rfl⟩

end Sys2Proof.Machine

/-! PROOFS of the statements about control events and interface reads (45_control): CANCEL ends an attempt, a read gives the
consumer its ports and writes no register, and without an event nothing changes. -/

namespace Sys2Proof.Machine

/-! ## CANCEL (R141) -/

theorem exec_cancel_of_le_trail {s : State} (hq : s.st ≤ stTrail) (q : BitVec 4) :
    exec (.cancel q) s = .next (finish .cancelled s) := congrArg Host.Outcome.next (if_pos hq)

theorem exec_cancel_of_done {s : State} (hd : s.st = stDone) (q : BitVec 4) : exec (.cancel q) s = .next s :=
  congrArg Host.Outcome.next (if_neg fun hq => not_done_of_le_trail hq hd)

/-- Settles O35: the two branches of CANCEL on `st`; the registers it writes are those of `finish`. -/
theorem cancelEndsTheAttempt : Obligations.CancelEndsTheAttempt := by
  unfold Obligations.CancelEndsTheAttempt
  intro q b s
  exact ⟨decode_key _ _ _ _, fun hq => exec_cancel_of_le_trail hq q, fun hd => exec_cancel_of_done hd q⟩

/-! ## The consumer's reads (R143, R145) -/

theorem exec_outRead (q : BitVec 4) (s : State) : exec (.outRead q) s = .next (record (.outcome (outPorts s)) s) := rfl

theorem exec_dbgRead (q : BitVec 4) (s : State) : exec (.dbgRead q) s = .next (record (.debug s.st) s) := rfl

theorem outValid_eq_decide (s : State) : outValid s = decide (s.st = stDone) :=
  Bool.eq_iff_iff.mpr ((outValid_iff s).trans decide_eq_true_iff.symm)

/-- Settles O38: the value recorded is that of the outcome ports, of which `out_valid` alone is computed from `st`. -/
theorem outReadGivesTheOutcomePorts : Obligations.OutReadGivesTheOutcomePorts := by
  unfold Obligations.OutReadGivesTheOutcomePorts
  intro q b s
  refine ⟨decode_key _ _ _ _, ?_⟩
  rw [exec_outRead, outPorts, outValid_eq_decide]
  rfl

/-- Settles O40: the value recorded is `st`, and the key's byte is ignored. -/
theorem dbgReadGivesTheState : Obligations.DbgReadGivesTheState := by
  unfold Obligations.DbgReadGivesTheState
  intro q b s
  exact ⟨decode_key _ _ _ _, exec_dbgRead q s⟩

/-! ## No event (R146) -/

/-- Settles O9: with no move the machine waits; at an edge where the handshake picks no event only the port level moves. -/
theorem noEventLeavesTheState : Obligations.NoEventLeavesTheState := by
  unfold Obligations.NoEventLeavesTheState
  refine ⟨fun s ha => step_of_no_move ha, fun s p rest ha hr hc ho hb => ?_⟩
  have idle : request (.edge p) (present (.edge p) { s with agenda := rest }) = none := arbitrate_none hr hc ho hb
  exact step_of_no_request ha idle

end Sys2Proof.Machine

/-! PROOFS of the statements about outcomes (60_exceptions): how DONE is entered, what keeps an outcome and what ends it, and where
a step of a reachable state stops. -/

namespace Sys2Proof.Machine

/-! ## The entry into DONE (R163) -/

/-- DONE is entered through `finish` alone, and LENL_CAP, the only one to write before it, enters it over the cap. -/
theorem exec_into_done {i : Instr} {s t : State} (h : exec i s = .next t) (hs : s.st ≠ stDone) (ht : t.st = stDone) :
    (∃ k, t = finish k s) ∨ ∃ b, i = .lenlCap b ∧ t = finish .lengthOverCap (captureLenLow b s) := by
  cases i with
  | addrTrl | cmdTrl | lenhTrl | lenlTrl | payTrl | trlMatch => cases h; exact .inl ⟨_, rfl⟩
  | hdrMatch | addrCap b | cmdCap b | lenhCap b | csCap b | reset q => cases h; cases ht
  | hdrSkip b | trlSkip b | outRead q | payRead q | dbgRead q => cases h; exact absurd ht hs
  | lenlCap b =>
    obtain rfl : routeLength (captureLenLow b s) = t := Host.Outcome.next.inj h
    rcases routeLength_cases (captureLenLow b s) with ⟨-, e⟩ | ⟨-, -, e⟩ | ⟨-, -, e⟩
    · exact .inr ⟨b, rfl, e⟩
    · rw [e] at ht; cases ht
    · rw [e] at ht; cases ht
  | payCap b =>
    rw [collectByte_of_exec h] at ht
    rcases collectByte_st b s with e | e
    · cases e.symm.trans ht
    · exact absurd (e.symm.trans ht) hs
  | ack q =>
    cases h
    rw [if_neg hs] at ht
    exact absurd ht hs
  | cancel q =>
    cases h
    by_cases hq : s.st ≤ stTrail
    · exact .inl ⟨.cancelled, if_pos hq⟩
    · rw [if_neg hq] at ht
      exact absurd ht hs

theorem inReady_of_done {s : State} (hd : s.st = stDone) (rst cancel : Bool) : inReady rst cancel s = false := by
  rw [← Bool.not_eq_true, inReady_iff]
  exact fun ready => not_done_of_le_trail ready.1 hd

/-- Settles O43: on either way into DONE the state is `finish`'s, over the captured length for LENL_CAP. -/
theorem finishIsTheOnlyWayIntoDone : Obligations.FinishIsTheOnlyWayIntoDone := by
  unfold Obligations.FinishIsTheOnlyWayIntoDone
  intro i s t h hs ht
  rcases exec_into_done h hs ht with ⟨k, rfl⟩ | ⟨b, rfl, rfl⟩
  · exact ⟨k, rfl, rfl, rfl, inReady_of_done rfl, rfl, fun _ => ⟨rfl, rfl⟩⟩
  · exact ⟨.lengthOverCap, rfl, rfl, rfl, inReady_of_done rfl, rfl, fun other => absurd rfl (other b)⟩

/-! ## What an event can come to (R67, R69, R160) -/

/-- Outside the reserved states a key has a row, is a byte in DONE, or is of a reserved class. -/
theorem decodeFields_of_le_done (cfg : Params) (c : BitVec 4) {q : BitVec 4} (hq : q ≤ stDone) (b : Byte) :
    (∃ i, decodeFields cfg c q b = .ok i) ∨ decodeFields cfg c q b = .error .noStepInDone ∨
    (0x7#4 ≤ c ∧ decodeFields cfg c q b = .error (.reservedClass c)) := by
  by_cases h7 : 0x7#4 ≤ c
  · exact .inr (.inr ⟨h7, decodeFields_reservedClass cfg h7 q b⟩)
  by_cases h0 : c = clsByte
  · subst h0
    by_cases hd : q = stDone
    · subst hd
      exact .inr (.inl rfl)
    · exact .inl (decodeByte_of_le_trail cfg (le_trail_of_not_done hq hd) b)
  · obtain ⟨i, hi⟩ := decodeFields_control cfg h0 h7 q
    exact .inl ⟨i, hi b⟩

/-- PAY_CAP is the only operation that can stop, and not at an index the buffer has (R111). -/
theorem exec_completes {i : Instr} {s : State} (hi : i.stateField = s.st)
    (cap : s.st = stPayload → s.payIdx < s.cfg.payloadCap) : ∃ t, exec i s = .next t := by
  cases i with
  | payCap b => exact ⟨_, exec_payCap_of_lt (cap hi.symm) b⟩
  | _ => exact ⟨_, rfl⟩

theorem runEvent_next_or_reservedClass (c : BitVec 4) {s : State} (hq : s.st ≤ stDone)
    (cap : s.st = stPayload → s.payIdx < s.cfg.payloadCap) :
    (∃ t, runEvent c s = .next t) ∨ (0x7#4 ≤ c ∧ runEvent c s = .refused (.reservedClass c)) := by
  rcases decodeFields_of_le_done s.cfg c hq (if c = clsByte then frontByte s else 0x00#8) with ⟨i, hi⟩ | e | ⟨h7, e⟩
  · rw [runEvent_of_fields hi]
    have cap' : (admitByte c s).st = stPayload → (admitByte c s).payIdx < (admitByte c s).cfg.payloadCap := by
      unfold admitByte
      split <;> exact cap
    exact .inl (exec_completes ((decodeFields_stateField hi).trans (admitByte_st c s).symm) cap')
  · exact .inl ⟨s, by rw [runEvent, stepKey, decode_key, e]⟩
  · exact .inr ⟨h7, by rw [runEvent, stepKey, decode_key, e]⟩

theorem ReachInv.payIdx_lt_payloadCap {s : State} (h : ReachInv s) (hs : s.st = stPayload) :
    s.payIdx < s.cfg.payloadCap := by
  obtain ⟨lt, fits, -⟩ := (shape_payload_iff s).mp (h.attemptAt hs (by decide)).shape
  exact Std.lt_of_lt_of_le lt fits

theorem ReachInv.step_next_or_reservedClass {s : State} (h : ReachInv s) :
    (∃ t, step s = .next t) ∨ ∃ c, 0x7#4 ≤ c ∧ step s = .refused (.reservedClass c) := by
  cases ha : s.agenda with
  | nil => exact .inl ⟨s, step_of_no_move ha⟩
  | cons m rest =>
    cases hr : request m (Machine.present m { s with agenda := rest }) with
    | none => exact .inl ⟨_, step_of_no_request ha hr⟩
    | some c =>
      have inv := h.present m rest
      rw [step_of_request ha hr]
      exact (runEvent_next_or_reservedClass c inv.state inv.payIdx_lt_payloadCap).imp_right fun refused => ⟨c, refused⟩

/-- Settles O53: a step of a reachable state answers a next state or names the reserved class. -/
theorem reachableStatesNeverFault : Obligations.ReachableStatesNeverFault := by
  unfold Obligations.ReachableStatesNeverFault
  intro s inv
  rcases inv.step_next_or_reservedClass with ⟨t, e⟩ | ⟨c, h7, e⟩ <;> rw [e]
  · exact ⟨nofun, nofun⟩
  · exact ⟨nofun, fun r hr => ⟨c, h7, (Host.Outcome.refused.inj hr).symm⟩⟩

/-! ## The held outcome and its return (R164, R167) -/

theorem exec_ack_of_done {s : State} (hd : s.st = stDone) (q : BitVec 4) : exec (.ack q) s = .next (beginAttempt s) :=
  congrArg Host.Outcome.next (if_pos hd)

theorem exec_reset (q : BitVec 4) (s : State) : exec (.reset q) s = .next (resetState s) := rfl

/-- While an outcome is held, a move that is no ACK, no RESET and of no reserved class writes at most the consumer's sample. -/
theorem step_in_done {s u : State} {m : Stimulus} {rest : List Stimulus} (hd : s.st = stDone)
    (hag : s.agenda = m :: rest) (hu : u = present m { s with agenda := rest }) (ha : request m u ≠ some clsAck)
    (hr : request m u ≠ some clsReset) (hc : ∀ c, request m u = some c → c ≤ 0x6#4) :
    ∃ v, step s = .next { u with sampled := v } := by
  have held : u.st = stDone := by rw [hu, present_st]; exact hd
  subst hu
  cases hm : request m (present m { s with agenda := rest }) with
  | none => exact ⟨_, step_of_no_request hag hm⟩
  | some c =>
    rw [hm] at ha hr
    have notPayload : (present m { s with agenda := rest }).st ≠ stPayload := by rw [held]; decide
    rw [step_of_request hag hm]
    rcases runEvent_next_or_reservedClass c (BitVec.le_of_eq held) fun e => absurd e notPayload with ⟨t, ht⟩ | ⟨h7, -⟩
    · rw [ht, runEvent_in_done held (fun e => ha (congrArg some e)) (fun e => hr (congrArg some e)) ht]
      exact ⟨t.sampled, rfl⟩
    · exact absurd (BitVec.le_trans h7 (hc c hm)) (by decide)

theorem outPorts_present (m : Stimulus) (rest : List Stimulus) (s : State) :
    outPorts (present m { s with agenda := rest }) = outPorts s := by
  cases m <;> rfl

/-- Settles O44: ACK begins an attempt, RESET begins one too, and every other move leaves what the outcome is read from. -/
theorem heldOutcomeStaysUntilAckOrReset : Obligations.HeldOutcomeStaysUntilAckOrReset := by
  unfold Obligations.HeldOutcomeStaysUntilAckOrReset
  refine ⟨fun s q hd => ?_, fun s q => ⟨_, exec_reset q s, rfl, rfl⟩, ?_⟩
  · exact ⟨_, exec_ack_of_done hd q, rfl, rfl, rfl, rfl, rfl, rfl, rfl, rfl, rfl, rfl, rfl, rfl, rfl⟩
  · rintro s u m rest hd hag rfl ha hr hc
    obtain ⟨v, e⟩ := step_in_done hd hag rfl ha hr hc
    have held : (present m { s with agenda := rest }).st = stDone := (present_st m _).trans hd
    exact ⟨_, e, held, outPorts_present m rest s, memRead_congr (present_cfg m _) (present_payBuf m _),
      inReady_of_done held⟩

/-- Settles O45: both are `beginAttempt`, which leaves what `State.reset` has in every register but the buffer. -/
theorem ackLeavesTheResetRegisters : Obligations.AckLeavesTheResetRegisters := by
  unfold Obligations.AckLeavesTheResetRegisters
  exact fun s q hd => ⟨_, _, exec_ack_of_done hd q, exec_reset q s, rfl, rfl⟩

end Sys2Proof.Machine

/-! PROOFS of the statements about reset and hazards (70_reset_and_hazards): RESET reaches the reset state from every state, `rst`
wins its edge, and `cancel` leaves the offered byte for the next attempt. -/

namespace Sys2Proof.Machine

/-! ## RESET and the edge of `rst` (R180, R181) -/

/-- Settles O36: a key of class RESET decodes whatever its state field and byte, and its meaning is `resetState`. -/
theorem resetClearsEveryRegister : Obligations.ResetClearsEveryRegister := by
  unfold Obligations.ResetClearsEveryRegister
  intro q b s
  have ready : inReady false false (resetState s) = true :=
    (inReady_iff _ _ _).mpr ⟨(by decide : stSync ≤ stTrail), rfl, rfl⟩
  exact ⟨decode_key _ _ _ _, _, exec_reset q s, rfl, rfl, ready, resetState_st s⟩

theorem inReady_of_rst {rst : Bool} (hr : rst = true) (cancel : Bool) (s : State) : inReady rst cancel s = false := by
  rw [← Bool.not_eq_true, inReady_iff]
  rintro ⟨-, low, -⟩
  cases hr.symm.trans low

/-- At an edge with `rst` the machine is reset, whatever else its pins ask for. -/
theorem step_resetEdge {s : State} {p : Pins} {rest : List Stimulus} (ha : s.agenda = .edge p :: rest) (hr : p.rst = true) :
    step s = .next (resetState (present (.edge p) { s with agenda := rest })) :=
  ((step_of_request ha (arbitrate_reset hr)).trans (runEvent_control (by decide) rfl)).trans (exec_reset _ _)

/-- A second reset, at the next edge, moves only the environment. -/
theorem resetState_present_resetState (p : Pins) (rest : List Stimulus) (s : State) :
    resetState (present (.edge p) { resetState s with agenda := rest }) =
      { resetState s with agenda := rest, payRaddr := p.payRaddr } := rfl

/-- Settles O37: both edges reset, and the second finds every register at its reset value. -/
theorem resetHeldHasNoFurtherEffect : Obligations.ResetHeldHasNoFurtherEffect := by
  unfold Obligations.ResetHeldHasNoFurtherEffect
  intro s p p' rest ha hr hr'
  have again := (step_resetEdge (s := resetState (present (.edge p) { s with agenda := .edge p' :: rest })) rfl hr').trans
    (congrArg Host.Outcome.next (resetState_present_resetState p' rest _))
  exact ⟨inReady_of_rst hr _ s, _, step_resetEdge ha hr, rfl, rfl, rfl, rfl, rfl, again⟩

/-! ## `cancel` and a byte at the same edge (R188) -/

/-- At an edge with `cancel` in a decode state the attempt ends, whether or not a byte is offered. -/
theorem step_cancelEdge {s : State} {p : Pins} {rest : List Stimulus} (ha : s.agenda = .edge p :: rest) (hr : p.rst = false)
    (hc : p.cancel = true) (hq : s.st ≤ stTrail) :
    step s = .next (finish .cancelled (present (.edge p) { s with agenda := rest })) := by
  have decoding : (present (.edge p) { s with agenda := rest }).st ≤ stTrail := by rw [present_st]; exact hq
  exact ((step_of_request ha (arbitrate_cancel hr hc decoding)).trans (runEvent_control (by decide) rfl)).trans
    (exec_cancel_of_le_trail decoding _)

/-- Settles O42: neither the cancel nor the ACK that follows takes a byte from the stream. -/
theorem cancelEdgeKeepsTheOfferedByte : Obligations.CancelEdgeKeepsTheOfferedByte := by
  unfold Obligations.CancelEdgeKeepsTheOfferedByte
  intro s p r rest ha hr hc _ hq
  have ack := step_ackEvent (s := finish .cancelled (present (.edge p) { s with agenda := .event clsAck r :: rest })) rfl rfl
  exact ⟨_, _, step_cancelEdge ha hr hc hq, rfl, rfl, rfl, rfl, rfl, ack, rfl, rfl, rfl⟩

end Sys2Proof.Machine
